-- ==== Sys2Proof/Word.lean ====
section
/-! DEFINITION. The widths of chip8-core's values (00_scope R6, R8, R9): all of them unsigned. -/

namespace Sys2Proof

/-- An 8-bit value: a V register, a timer, a memory cell, the field `nn` (R6, R72). -/
abbrev Byte := BitVec 8

/-- A 16-bit value: PC, I, a stack slot, an opcode word (R6, R20). -/
abbrev Word := BitVec 16

/-- A 4-bit opcode field: `family`, `x`, `y` or `n` (R72). -/
abbrev Nibble := BitVec 4

/-- The 12-bit opcode field `nnn` (R72). -/
abbrev Addr12 := BitVec 12

/-- A key code 0..15 (R37). -/
abbrev KeyCode := Fin 16

/-- The screen, 32 rows of 64 one-bit pixels (R36): bit `px` of row `py` is pixel (px, py). -/
abbrev Screen := Vector (BitVec 64) 32

end Sys2Proof
end

