-- ==== Sys2Proof/Syntax.lean ====
section
/-! DEFINITION. The 35 operations (30_encoding R74 to R79), one constructor per row of spec/opcode_table.json, in its order.
A constructor carries EVERY bit of its word that the row does not fix, the ignored ones too (`u` of CLS and RET, `y` of SHR and SHL):
the fault record holds the instruction's word (R201), so no bit may be lost (log entry 10). -/

namespace Sys2Proof

/-- An operation with its operand fields (R72). -/
inductive Instr where
  | cls (u : Nibble)                  -- 0uE0, u ignored (R100)
  | ret (u : Nibble)                  -- 0uEE, u ignored (R101)
  | sys (nnn : Addr12)                -- 0nnn, nn neither E0 nor EE (R102)
  | jp (nnn : Addr12)                 -- 1nnn (R103)
  | call (nnn : Addr12)               -- 2nnn (R104)
  | seImm (x : Nibble) (nn : Byte)    -- 3xnn (R105)
  | sneImm (x : Nibble) (nn : Byte)   -- 4xnn (R106)
  | seReg (x y : Nibble)              -- 5xy0 (R107)
  | ldImm (x : Nibble) (nn : Byte)    -- 6xnn (R122)
  | addImm (x : Nibble) (nn : Byte)   -- 7xnn (R123)
  | ldReg (x y : Nibble)              -- 8xy0 (R124)
  | orReg (x y : Nibble)              -- 8xy1 (R125)
  | andReg (x y : Nibble)             -- 8xy2 (R126)
  | xorReg (x y : Nibble)             -- 8xy3 (R127)
  | addReg (x y : Nibble)             -- 8xy4 (R128)
  | sub (x y : Nibble)                -- 8xy5 (R129)
  | shr (x y : Nibble)                -- 8xy6, y ignored (R130)
  | subn (x y : Nibble)               -- 8xy7 (R131)
  | shl (x y : Nibble)                -- 8xyE, y ignored (R132)
  | sneReg (x y : Nibble)             -- 9xy0 (R108)
  | ldI (nnn : Addr12)                -- Annn (R140)
  | jpV0 (nnn : Addr12)               -- Bnnn (R141)
  | rnd (x : Nibble) (nn : Byte)      -- Cxnn (R143)
  | drw (x y n : Nibble)              -- Dxyn (R144)
  | skp (x : Nibble)                  -- Ex9E (R161)
  | sknp (x : Nibble)                 -- ExA1 (R162)
  | ldVxDt (x : Nibble)               -- Fx07 (R163)
  | ldVxK (x : Nibble)                -- Fx0A (R164)
  | ldDtVx (x : Nibble)               -- Fx15 (R165)
  | ldStVx (x : Nibble)               -- Fx18 (R166)
  | addIVx (x : Nibble)               -- Fx1E (R167)
  | ldFVx (x : Nibble)                -- Fx29 (R168)
  | ldBVx (x : Nibble)                -- Fx33 (R169)
  | ldMemVx (x : Nibble)              -- Fx55 (R170)
  | ldVxMem (x : Nibble)              -- Fx65 (R171)
deriving DecidableEq, Repr

/-- The row's mnemonic in spec/opcode_table.json (R83: a label), the `kind` of a trace line (R224). -/
def Instr.mnemonic : Instr → String
  | .cls _ => "CLS"
  | .ret _ => "RET"
  | .sys _ => "SYS"
  | .jp _ => "JP"
  | .call _ => "CALL"
  | .seImm _ _ => "SE_IMM"
  | .sneImm _ _ => "SNE_IMM"
  | .seReg _ _ => "SE_REG"
  | .ldImm _ _ => "LD_IMM"
  | .addImm _ _ => "ADD_IMM"
  | .ldReg _ _ => "LD_REG"
  | .orReg _ _ => "OR"
  | .andReg _ _ => "AND"
  | .xorReg _ _ => "XOR"
  | .addReg _ _ => "ADD_REG"
  | .sub _ _ => "SUB"
  | .shr _ _ => "SHR"
  | .subn _ _ => "SUBN"
  | .shl _ _ => "SHL"
  | .sneReg _ _ => "SNE_REG"
  | .ldI _ => "LD_I"
  | .jpV0 _ => "JP_V0"
  | .rnd _ _ => "RND"
  | .drw _ _ _ => "DRW"
  | .skp _ => "SKP"
  | .sknp _ => "SKNP"
  | .ldVxDt _ => "LD_VX_DT"
  | .ldVxK _ => "LD_VX_K"
  | .ldDtVx _ => "LD_DT_VX"
  | .ldStVx _ => "LD_ST_VX"
  | .addIVx _ => "ADD_I_VX"
  | .ldFVx _ => "LD_F_VX"
  | .ldBVx _ => "LD_B_VX"
  | .ldMemVx _ => "LD_MEM_VX"
  | .ldVxMem _ => "LD_VX_MEM"

end Sys2Proof
end

