-- ==== Sys2Proof/WellFormed.lean ====
section
/-! DEFINITION. Which terms of `Instr` stand for a word (30_encoding R75): the widths of the fields are in their types, so the one
check left is that SYS is not written with the low byte of CLS or of RET. -/

namespace Sys2Proof

/-- Every operation is well formed at every operand, but SYS with nn = E0 (the words of CLS) or nn = EE (those of RET) (R75). -/
def Instr.wf : Instr → Bool
  | .sys nnn => nnn.setWidth 8 != 0xE0#8 && nnn.setWidth 8 != 0xEE#8
  | .cls _ => true
  | .ret _ => true
  | .jp _ => true
  | .call _ => true
  | .seImm _ _ => true
  | .sneImm _ _ => true
  | .seReg _ _ => true
  | .ldImm _ _ => true
  | .addImm _ _ => true
  | .ldReg _ _ => true
  | .orReg _ _ => true
  | .andReg _ _ => true
  | .xorReg _ _ => true
  | .addReg _ _ => true
  | .sub _ _ => true
  | .shr _ _ => true
  | .subn _ _ => true
  | .shl _ _ => true
  | .sneReg _ _ => true
  | .ldI _ => true
  | .jpV0 _ => true
  | .rnd _ _ => true
  | .drw _ _ _ => true
  | .skp _ => true
  | .sknp _ => true
  | .ldVxDt _ => true
  | .ldVxK _ => true
  | .ldDtVx _ => true
  | .ldStVx _ => true
  | .addIVx _ => true
  | .ldFVx _ => true
  | .ldBVx _ => true
  | .ldMemVx _ => true
  | .ldVxMem _ => true

/-- `i` stands for a word of the instruction set. -/
abbrev WellFormed (i : Instr) : Prop := i.wf = true

end Sys2Proof
end

