-- ==== Sys2Proof/Decode.lean ====
section
/-! DEFINITION. The Opcode Decoder (30_encoding R70 to R82), total on all bytes, and the encoder beside it. -/

namespace Sys2Proof

/-! ## The fields of a word (R72) -/

/-- `family`, bits 15..12: the first-level dispatch key. -/
def opFamily (op : Word) : Nibble := op.extractLsb' 12 4

/-- `x`, bits 11..8. -/
def opX (op : Word) : Nibble := op.extractLsb' 8 4

/-- `y`, bits 7..4. -/
def opY (op : Word) : Nibble := op.extractLsb' 4 4

/-- `n`, bits 3..0. -/
def opN (op : Word) : Nibble := op.extractLsb' 0 4

/-- `nn`, bits 7..0. -/
def opNN (op : Word) : Byte := op.extractLsb' 0 8

/-- `nnn`, bits 11..0. -/
def opNNN (op : Word) : Addr12 := op.extractLsb' 0 12

/-- Why bytes decode to no operation. The five unknown classes are R80's; an unknown word is executed as R210 says. -/
inductive DecodeError where
  /-- Fewer than two bytes. -/
  | truncated
  /-- 5xyn with n ≠ 0 (R76). -/
  | unknownFamily5
  /-- 8xyn with n in 8..D or F (R77). -/
  | unknownFamily8
  /-- 9xyn with n ≠ 0 (R76). -/
  | unknownFamily9
  /-- Exnn with nn neither 9E nor A1 (R78). -/
  | unknownFamilyE
  /-- Fxnn with an nn that R79 does not list. -/
  | unknownFamilyF
deriving DecidableEq, Repr

/-- Family 0 dispatches on the low byte; bits 11..8 take no part in the choice (R75). -/
def decodeFamily0 (op : Word) : Except DecodeError Instr :=
  match (opNN op).toNat with
  | 0xE0 => .ok (.cls (opX op))
  | 0xEE => .ok (.ret (opX op))
  | _ => .ok (.sys (opNNN op))

/-- Family 8 dispatches on the low nibble (R77). -/
def decodeFamily8 (op : Word) : Except DecodeError Instr :=
  match (opN op).toNat with
  | 0x0 => .ok (.ldReg (opX op) (opY op))
  | 0x1 => .ok (.orReg (opX op) (opY op))
  | 0x2 => .ok (.andReg (opX op) (opY op))
  | 0x3 => .ok (.xorReg (opX op) (opY op))
  | 0x4 => .ok (.addReg (opX op) (opY op))
  | 0x5 => .ok (.sub (opX op) (opY op))
  | 0x6 => .ok (.shr (opX op) (opY op))
  | 0x7 => .ok (.subn (opX op) (opY op))
  | 0xE => .ok (.shl (opX op) (opY op))
  | _ => .error .unknownFamily8

/-- Family E dispatches on the low byte (R78). -/
def decodeFamilyE (op : Word) : Except DecodeError Instr :=
  match (opNN op).toNat with
  | 0x9E => .ok (.skp (opX op))
  | 0xA1 => .ok (.sknp (opX op))
  | _ => .error .unknownFamilyE

/-- Family F dispatches on the low byte (R79). -/
def decodeFamilyF (op : Word) : Except DecodeError Instr :=
  match (opNN op).toNat with
  | 0x07 => .ok (.ldVxDt (opX op))
  | 0x0A => .ok (.ldVxK (opX op))
  | 0x15 => .ok (.ldDtVx (opX op))
  | 0x18 => .ok (.ldStVx (opX op))
  | 0x1E => .ok (.addIVx (opX op))
  | 0x29 => .ok (.ldFVx (opX op))
  | 0x33 => .ok (.ldBVx (opX op))
  | 0x55 => .ok (.ldMemVx (opX op))
  | 0x65 => .ok (.ldVxMem (opX op))
  | _ => .error .unknownFamilyF

/-- The dispatcher's first level (R74), with the checked low nibble of families 5 and 9 (R76). A `family` is below 16, so the last arm is
family F. -/
def decodeWord (op : Word) : Except DecodeError Instr :=
  match (opFamily op).toNat with
  | 0x0 => decodeFamily0 op
  | 0x1 => .ok (.jp (opNNN op))
  | 0x2 => .ok (.call (opNNN op))
  | 0x3 => .ok (.seImm (opX op) (opNN op))
  | 0x4 => .ok (.sneImm (opX op) (opNN op))
  | 0x5 => if opN op = 0 then .ok (.seReg (opX op) (opY op)) else .error .unknownFamily5
  | 0x6 => .ok (.ldImm (opX op) (opNN op))
  | 0x7 => .ok (.addImm (opX op) (opNN op))
  | 0x8 => decodeFamily8 op
  | 0x9 => if opN op = 0 then .ok (.sneReg (opX op) (opY op)) else .error .unknownFamily9
  | 0xA => .ok (.ldI (opNNN op))
  | 0xB => .ok (.jpV0 (opNNN op))
  | 0xC => .ok (.rnd (opX op) (opNN op))
  | 0xD => .ok (.drw (opX op) (opY op) (opN op))
  | 0xE => decodeFamilyE op
  | _ => decodeFamilyF op

/-- The opcode word of two fetched bytes: the byte at the lower address is bits 15..8 (20_memory R50). -/
def wordOfBytes (hi lo : Byte) : Word := hi ++ lo

/-- The decoder on bytes: the operation of the first two, and the bytes after them. -/
def decode : List Byte → Except DecodeError (Instr × List Byte)
  | hi :: lo :: rest => (decodeWord (wordOfBytes hi lo)).map (fun i => (i, rest))
  | _ => .error .truncated

/-! ## The encoder, from the same tables; one helper per format of R72 -/

/-- Format A: family, nnn. -/
def encA (family : Nibble) (nnn : Addr12) : Word := family ++ nnn

/-- Formats N, XNN and X: family, x, nn (an operand or a sub-opcode). -/
def encXNN (family x : Nibble) (nn : Byte) : Word := family ++ (x ++ nn : BitVec 12)

/-- Formats XY and XYN: family, x, y, n (an operand or a sub-opcode). -/
def encXYN (family x y n : Nibble) : Word := family ++ (x ++ (y ++ n : BitVec 8) : BitVec 12)

/-- The word of an operation (R74 to R79). -/
def encode : Instr → Word
  | .cls u => encXNN 0x0 u 0xE0
  | .ret u => encXNN 0x0 u 0xEE
  | .sys nnn => encA 0x0 nnn
  | .jp nnn => encA 0x1 nnn
  | .call nnn => encA 0x2 nnn
  | .seImm x nn => encXNN 0x3 x nn
  | .sneImm x nn => encXNN 0x4 x nn
  | .seReg x y => encXYN 0x5 x y 0x0
  | .ldImm x nn => encXNN 0x6 x nn
  | .addImm x nn => encXNN 0x7 x nn
  | .ldReg x y => encXYN 0x8 x y 0x0
  | .orReg x y => encXYN 0x8 x y 0x1
  | .andReg x y => encXYN 0x8 x y 0x2
  | .xorReg x y => encXYN 0x8 x y 0x3
  | .addReg x y => encXYN 0x8 x y 0x4
  | .sub x y => encXYN 0x8 x y 0x5
  | .shr x y => encXYN 0x8 x y 0x6
  | .subn x y => encXYN 0x8 x y 0x7
  | .shl x y => encXYN 0x8 x y 0xE
  | .sneReg x y => encXYN 0x9 x y 0x0
  | .ldI nnn => encA 0xA nnn
  | .jpV0 nnn => encA 0xB nnn
  | .rnd x nn => encXNN 0xC x nn
  | .drw x y n => encXYN 0xD x y n
  | .skp x => encXNN 0xE x 0x9E
  | .sknp x => encXNN 0xE x 0xA1
  | .ldVxDt x => encXNN 0xF x 0x07
  | .ldVxK x => encXNN 0xF x 0x0A
  | .ldDtVx x => encXNN 0xF x 0x15
  | .ldStVx x => encXNN 0xF x 0x18
  | .addIVx x => encXNN 0xF x 0x1E
  | .ldFVx x => encXNN 0xF x 0x29
  | .ldBVx x => encXNN 0xF x 0x33
  | .ldMemVx x => encXNN 0xF x 0x55
  | .ldVxMem x => encXNN 0xF x 0x65

/-- The high byte of a word, stored at the lower address (R50). -/
def highByte (w : Word) : Byte := w.extractLsb' 8 8

/-- The low byte of a word, stored at the higher address (R50). -/
def lowByte (w : Word) : Byte := w.extractLsb' 0 8

/-- The two bytes of an operation as memory holds them. -/
def encodeBytes (i : Instr) : List Byte := [highByte (encode i), lowByte (encode i)]

/-- The word of a table row whose bits are `w`, of which the table gives `nbits` (log entry 21): the bits above them are zero. -/
def tableWord (nbits w : Nat) : Word := BitVec.ofNat 16 (w % 2 ^ nbits)

/-- What the decoder reads from an instruction whose bits are `w`, numbered as spec/opcode_table.json numbers them. -/
def decodeTableWord (nbits w : Nat) : Option Instr :=
  match decode [highByte (tableWord nbits w), lowByte (tableWord nbits w)] with
  | .ok (i, _) => some i
  | .error _ => none

end Sys2Proof
end

