-- ==== Sys2Proof/Config.lean ====
section
/-! DEFINITION. The parameters of 00_scope R6: the sizes the spec fixes, and the free values it leaves open.
A free value is an opaque constant: nothing in Lean can evaluate it or prove a value of it. The font's parameters stand in
Machine/Font.lean. -/

namespace Sys2Proof

/-- `MEM_SIZE` (R6): the number of memory cells. -/
def Config.memSize : Nat := 4096

/-- `LOAD_ADDR` (R6): where a ROM is loaded and where PC starts (R27). -/
def Config.loadAddr : Nat := 0x200

/-- `MAX_ROM` (R6): the room from `LOAD_ADDR` to the end of memory, 3584 bytes. -/
def Config.maxRom : Nat := Config.memSize - Config.loadAddr

/-- `TRACE_ENABLED` at construction. DESIGN CHOICE (log entry 5): the spec leaves it a parameter (R39). UNSAFE: a claim about the
run from reset could lean on it. -/
def Config.traceAtConstruction : Bool := false

/-- `RANDOM` (R142): the value of the k-th draw. A free value (log entry 6): any byte, no law between draws. Safe. -/
opaque Config.randomByte : Nat → Byte

/-- `TRACE_TEXT` (R224): the text of a trace line, from the operation's name (or "unknown"), its address and its word. A free value
(log entry 7). Safe. -/
opaque Config.traceText : String → Word → Word → String

/-- The host's clock (R224): the time stamp of the k-th trace line. A free value (log entry 7). Safe. -/
opaque Config.hostClock : Nat → Nat

/-- `TIMER_HZ` (R6): information only, no rule reads it (R7). -/
def Config.timerHz : Nat := 60

/-- `CPU_HZ` (R6): open, information only, no rule reads it (R7). -/
opaque Config.cpuHz : Nat

end Sys2Proof
end

