-- ==== Sys2Proof/Machine/Font.lean ====
section
/-! DEFINITION. The font's parameters (10_state R35): `FONT_BASE` and `FONT_DATA` at the spec's defaults (log entry 9), and the reset
contents of memory that follow from them (R34). -/

namespace Sys2Proof.Machine

/-- `FONT_BASE` (R6, R35): the spec's default 0x050. -/
def fontBase : Nat := 0x050

/-- `FONT_GLYPH_BYTES` (R6): the bytes of one glyph. -/
def fontGlyphBytes : Nat := 5

/-- The glyphs of digits 0 to 7 (R35), rows top to bottom, bit 7 the leftmost pixel. -/
def fontLow : List Byte :=
  [0xF0, 0x90, 0x90, 0x90, 0xF0] ++ [0x20, 0x60, 0x20, 0x20, 0x70] ++
  [0xF0, 0x10, 0xF0, 0x80, 0xF0] ++ [0xF0, 0x10, 0xF0, 0x10, 0xF0] ++
  [0x90, 0x90, 0xF0, 0x10, 0x10] ++ [0xF0, 0x80, 0xF0, 0x10, 0xF0] ++
  [0xF0, 0x80, 0xF0, 0x90, 0xF0] ++ [0xF0, 0x10, 0x20, 0x40, 0x40]

/-- The glyphs of digits 8 to F (R35). -/
def fontHigh : List Byte :=
  [0xF0, 0x90, 0xF0, 0x90, 0xF0] ++ [0xF0, 0x90, 0xF0, 0x10, 0xF0] ++
  [0xF0, 0x90, 0xF0, 0x90, 0x90] ++ [0xE0, 0x90, 0xE0, 0x90, 0xE0] ++
  [0xF0, 0x80, 0x80, 0x80, 0xF0] ++ [0xE0, 0x90, 0x90, 0x90, 0xE0] ++
  [0xF0, 0x80, 0xF0, 0x80, 0xF0] ++ [0xF0, 0x80, 0xF0, 0x80, 0x80]

/-- `FONT_DATA` (R35): 80 bytes, 5 per digit. -/
def fontData : List Byte := fontLow ++ fontHigh

/-- The reset contents of the cell at `a` (R34): the font's byte in the font region, 0 elsewhere. -/
def resetByte (a : Nat) : Byte :=
  if fontBase ≤ a then fontData.getD (a - fontBase) 0 else 0

end Sys2Proof.Machine
end

