-- ==== Sys2Proof/Machine/State.lean ====
section
/-! DEFINITION. The state of the machine as plain data (10_state R20), the reasons of an outcome, and the state after reset (R242). -/

namespace Sys2Proof.Machine

/-- Memory (R34) as the cells whose contents differ from their reset contents: addresses strictly rising (`Memory.wf` in Ops.lean). -/
abbrev Memory := List Host.Cell

/-- The faults of 60_exceptions R201. They are states of the machine (FAULT), not outcomes of a step. -/
inductive FaultKind where
  /-- Raised by CALL with SP = 16 (R202). -/
  | stackOverflow
  /-- Raised by RET with SP = 0 (R203). -/
  | stackUnderflow
  /-- Raised by the fetch, by DRW, LD_B_VX, LD_MEM_VX and LD_VX_MEM (memory), and by SKP and SKNP (key code) (R204). -/
  | outOfBounds
  /-- Raised by the host's loadRom (R205). -/
  | romTooLarge
deriving DecidableEq, Repr

/-- The cause code of a fault (R201). -/
def FaultKind.code : FaultKind → Nat
  | .stackOverflow => 1
  | .stackUnderflow => 2
  | .outOfBounds => 3
  | .romTooLarge => 4

/-- The record of a fault (R41): `opcode` is 0 for a fetch fault and for RomTooLarge. -/
structure FaultRecord where
  kind : FaultKind
  addr : Word
  opcode : Word
deriving DecidableEq, Repr

/-- A line of the Trace port: the text and the host's time stamp (R224), both free values (log entry 7). -/
structure TraceLine where
  stamp : Nat
  text : String
deriving DecidableEq, Repr

/-- The output events (R220). -/
inductive PortEvent where
  /-- The 2048 pixels after a CLS or a DRW (R221). -/
  | framebufferUpdate (pixels : Screen)
  /-- A timer tick at which ST > 0 (R222). -/
  | audioTrigger
  /-- An executed or unknown instruction while tracing is enabled (R223). -/
  | trace (line : TraceLine)
  /-- A fault (R207). -/
  | faultReport (kind : FaultKind) (addr opcode : Word)
deriving DecidableEq, Repr

/-- One atomic step of one of the three agents (R15, R228, R235). A key code is a plain number: outside 0..15 the call is outside the port
contract and is refused (R233, log entry 15). -/
inductive AgentStep where
  /-- One step of the CPU activity (R250). -/
  | cpuTick
  /-- One step of the timer activity (R226). -/
  | timerTick
  /-- The host loads a ROM (R230). -/
  | loadRom (bytes : List Byte)
  /-- The host stops both activities (R231). -/
  | stop
  /-- The host resumes both activities (R232). -/
  | resume
  /-- The host presses a key (R233). -/
  | setKey (code : Nat)
  /-- The host releases a key (R234). -/
  | clearKey (code : Nat)
  /-- The host changes TRACE_ENABLED (R39, R235). -/
  | setTrace (on : Bool)
deriving DecidableEq, Repr

/-- Reasons to stop with a fault: NONE. Every fault the spec has is taken as R206 says, in a next state with FAULT set, so no step raises
one (log entry 1). Safe. -/
inductive Fault where
deriving DecidableEq, Repr

/-- Reasons to refuse. -/
inductive Refusal where
  /-- Raised by `exec` alone, for an instruction without a meaning yet: none is left. Safe. -/
  | notModelled (mnemonic : String)
  /-- Raised by the host's setKey and clearKey with a code outside 0..15: "outside the port contract, and the model has no such step" (R233,
  R234; U27 `refuse`; log entry 15). Safe. -/
  | keyCodeOutsideContract (code : Nat)
deriving DecidableEq, Repr

/-- The state: R20's record, then the host input TRACE_ENABLED (R39) and the port history (R220), then three fields of the model's own
(`draws`, `stamps`, `schedule`). -/
structure State where
  /-- V0..VF (R21). -/
  v : Vector Byte 16
  /-- The index register I (R29). -/
  i : Word
  /-- The program counter (R26). -/
  pc : Word
  /-- The stack slots S[1..16] (R30): S[k] is at index k - 1. -/
  stack : Vector Word 16
  /-- SP, the call depth 0..16 (R30). -/
  sp : Fin 17
  /-- The delay timer (R33). -/
  dt : Byte
  /-- The sound timer (R33). -/
  st : Byte
  /-- The 4096 cells (R34). -/
  mem : Memory
  /-- The framebuffer (R36). -/
  fb : Screen
  /-- KEY[0..15] (R37). -/
  key : Vector Bool 16
  /-- The key latch (R38). -/
  latch : Option KeyCode
  /-- RUNNING (R40). -/
  running : Bool
  /-- FAULT (R41). -/
  fault : Option FaultRecord
  /-- The host input TRACE_ENABLED (R39). -/
  traceEnabled : Bool
  /-- The output events so far, oldest first (R220). -/
  history : List PortEvent
  /-- How many values have been drawn from RANDOM (log entry 6). -/
  draws : Nat
  /-- How many time stamps have been taken from the host's clock (log entry 7). -/
  stamps : Nat
  /-- The steps of the interleaving to come, the next one first (log entry 3). -/
  schedule : List AgentStep
deriving DecidableEq, Repr

/-- The state after construction (70_reset R242), which is reset's (R240, R44) with no ROM, RUNNING = false and FAULT = none. -/
def State.reset : State where
  v := Vector.replicate 16 0
  i := 0
  pc := 0x200
  stack := Vector.replicate 16 0
  sp := 0
  dt := 0
  st := 0
  mem := []
  fb := Vector.replicate 32 0
  key := Vector.replicate 16 false
  latch := none
  running := false
  fault := none
  traceEnabled := Config.traceAtConstruction
  history := []
  draws := 0
  stamps := 0
  schedule := []

/-- What a step answers. -/
abbrev Result := Host.Outcome State Fault Refusal

end Sys2Proof.Machine
end

