-- ==== Sys2Proof/Machine/Ops.lean ====
section
/-! DEFINITION. The named operations over registers, memory, the stack, the ports and the free values, and TAKING A FAULT (R206), which is
one shared operation. There is no return from a fault (R214): only the host's loadRom clears it (R208). -/

namespace Sys2Proof.Machine

/-! ## Registers -/

/-- `V[x]` (R10, R21). -/
def State.getV (s : State) (x : Nibble) : Byte := s.v[x.toNat]'x.isLt

/-- `V[x] <- b` (R10, R22). -/
def State.setV (s : State) (x : Nibble) (b : Byte) : State := { s with v := s.v.set x.toNat b x.isLt }

/-- `PC <- w` (R10). -/
def State.setPc (s : State) (w : Word) : State := { s with pc := w }

/-- `I <- w` (R10). -/
def State.setI (s : State) (w : Word) : State := { s with i := w }

/-- `DT <- b` (R10). -/
def State.setDt (s : State) (b : Byte) : State := { s with dt := b }

/-- `ST <- b` (R10). -/
def State.setSt (s : State) (b : Byte) : State := { s with st := b }

/-- `FB <- f` (R10). -/
def State.setFb (s : State) (f : Screen) : State := { s with fb := f }

/-- `LATCH <- k` (R10). -/
def State.setLatch (s : State) (k : Option KeyCode) : State := { s with latch := k }

/-- `KEY[k] <- b` (R37). -/
def State.setKeyState (s : State) (k : KeyCode) (b : Bool) : State := { s with key := s.key.set k.val b k.isLt }

/-- `KEY[k]` (R37). -/
def State.keyState (s : State) (k : KeyCode) : Bool := s.key[k.val]'k.isLt

/-- `RUNNING <- b` (R40). -/
def State.setRunning (s : State) (b : Bool) : State := { s with running := b }

/-- A skip whose predicate is `c`: PC + 2 more, modulo 2^16 (R26, R105). -/
def State.skipIf (s : State) (c : Bool) : State := if c then s.setPc (s.pc + 2) else s

/-- The address `a` of the instruction being executed: PC already holds `a + 2` (R13, log entry 14). -/
def State.instrAddr (s : State) : Word := s.pc - 2

/-! ## Memory (20_memory) -/

/-- The contents of cell `a`: what is listed, or else the reset contents (log entry 13). -/
def Memory.read : Memory → Nat → Byte
  | [], a => resetByte a
  | (c, b) :: rest, a => if c = a then b else Memory.read rest a

/-- Put `b` at `a` in a canonical list, keeping it canonical: a cell that holds its reset contents is not listed. -/
def Memory.put : Memory → Nat → Byte → Memory
  | [], a, b => if b = resetByte a then [] else [(a, b)]
  | (c, d) :: rest, a, b =>
    if c < a then (c, d) :: Memory.put rest a b
    else if c = a then (if b = resetByte a then rest else (a, b) :: rest)
    else (if b = resetByte a then (c, d) :: rest else (a, b) :: (c, d) :: rest)

/-- `MemWrite(a, 1, b)` (R11). There is no cell outside 0x000..0xFFF to write: every rule checks its range first (R53), so the second branch
is never reached from a meaning. -/
def Memory.write (m : Memory) (a : Nat) (b : Byte) : Memory := if a < Config.memSize then Memory.put m a b else m

/-- The bytes of the cells a, a + 1, … in order, `n` of them (R55). -/
def Memory.readBytes (m : Memory) (a : Nat) : Nat → List Byte
  | 0 => []
  | n + 1 => Memory.read m a :: Memory.readBytes m (a + 1) n

/-- Write the bytes to the cells a, a + 1, … in order (R55). -/
def Memory.writeBytes (m : Memory) (a : Nat) : List Byte → Memory
  | [] => m
  | b :: bs => Memory.writeBytes (Memory.write m a b) (a + 1) bs

/-- The canonical form, for the cells above `lo`: addresses strictly rising, each an existing cell, none with its reset contents. -/
def Memory.wfFrom : Nat → Memory → Bool
  | _, [] => true
  | lo, (c, b) :: rest => decide (lo ≤ c) && decide (c < Config.memSize) && b != resetByte c && Memory.wfFrom (c + 1) rest

/-- The canonical form of memory. -/
def Memory.wf (m : Memory) : Bool := Memory.wfFrom 0 m

/-- `MemRead(a, 1)` (R11). -/
def State.readByte (s : State) (a : Nat) : Byte := Memory.read s.mem a

/-- `InBounds(a, n)`: the cells a..a+n-1 exist, on unbounded integers (R11, R53). -/
def inBounds (a n : Nat) : Bool := decide (a + n ≤ Config.memSize)

/-- `MemRead(a, 2)` (R11): the fetched word, the byte at the lower address high (R50). -/
def State.wordAt (s : State) (a : Nat) : Word := wordOfBytes (s.readByte a) (s.readByte (a + 1))

/-- Write consecutive bytes from `a` on (R55). -/
def State.storeBytes (s : State) (a : Nat) (bs : List Byte) : State := { s with mem := Memory.writeBytes s.mem a bs }

/-! ## The ports -/

/-- `emit E` (R12, R220). -/
def State.emit (s : State) (e : PortEvent) : State := { s with history := s.history ++ [e] }

/-- The trace line of an executed or unknown instruction, emitted only when TRACE_ENABLED (R223, R224). -/
def State.traced (s : State) (kind : String) (a op : Word) : State :=
  if s.traceEnabled then
    { s with
      history := s.history ++ [.trace ⟨Config.hostClock s.stamps, Config.traceText kind a op⟩]
      stamps := s.stamps + 1 }
  else s

/-- Clear or draw: the new screen, and one FramebufferUpdate with the snapshot (R66, R221). -/
def State.showScreen (s : State) (f : Screen) : State := (s.setFb f).emit (.framebufferUpdate f)

/-! ## The free value RANDOM -/

/-- `draw RandomByte` (R142): the value, and the state in which the next draw is a fresh one. -/
def State.drawRandom (s : State) : Byte × State := (Config.randomByte s.draws, { s with draws := s.draws + 1 })

/-! ## The stack (10_state R30) -/

/-- Push a return address: SP + 1, then S[SP]; none when all 16 slots are in use (R104). -/
def State.push (s : State) (w : Word) : Option State :=
  if h : s.sp.val < 16 then
    some { s with sp := ⟨s.sp.val + 1, by omega⟩, stack := s.stack.set s.sp.val w h }
  else none

/-- Pop: S[SP], then SP - 1; none when the stack is empty. The slot keeps its value (R31, R101). -/
def State.pop (s : State) : Option (Word × State) :=
  if _h : s.sp.val = 0 then none
  else some (s.stack[s.sp.val - 1]'(by have := s.sp.isLt; omega), { s with sp := ⟨s.sp.val - 1, by have := s.sp.isLt; omega⟩ })

/-! ## Taking a fault -/

/-- Fault entry (R206): PC back to the faulting instruction's address `a`, FAULT set, one FaultReport; nothing else is written. -/
def State.takeFault (s : State) (kind : FaultKind) (a op : Word) : State :=
  { s with
    pc := a
    fault := some ⟨kind, a, op⟩
    history := s.history ++ [.faultReport kind a op] }

/-- The fault of an instruction in its execute phase: its address, and its word (R201). -/
def State.faultAt (s : State) (kind : FaultKind) (ins : Instr) : State := s.takeFault kind s.instrAddr (encode ins)

end Sys2Proof.Machine
end

