-- ==== Sys2Proof/Machine/Flags.lean ====
section
/-! DEFINITION. The flag VF (10_state R23): every value an instruction gives it, and the order of the flag's write and the result's (R121). -/

namespace Sys2Proof.Machine

/-- VF is register 15 (R23). -/
def regVF : Nibble := 0xF

/-- A flag's value as a byte: 1 or 0. -/
def flagByte (c : Bool) : Byte := if c then 1 else 0

/-- The carry of p + q: the raw sum exceeds 255 (R128). -/
def carryFlag (p q : Byte) : Byte := flagByte (decide (255 < p.toNat + q.toNat))

/-- The flag of p - q: p > q, strictly (R129, R131; C4: equality gives 0). -/
def aboveFlag (p q : Byte) : Byte := flagByte (decide (q.toNat < p.toNat))

/-- The bit a right shift takes out: bit 0 (R130). -/
def shiftedOutLow (b : Byte) : Byte := b &&& 0x01

/-- The bit a left shift takes out: bit 7 (R132). -/
def shiftedOutHigh (b : Byte) : Byte := (b >>> 7) &&& 0x01

/-- `V[0xF] <- flag`, then `V[x] <- result`: with x = F the result wins (R121). -/
def State.setFlagAndResult (s : State) (x : Nibble) (flag result : Byte) : State := (s.setV regVF flag).setV x result

end Sys2Proof.Machine
end

