-- ==== Sys2Proof/Machine/Alu.lean ====
section
/-! DEFINITION. Register arithmetic (41_alu): on unsigned bytes, every result reduced to 8 bits (R120). -/

namespace Sys2Proof.Machine

/-- LD Vx, nn (R122). -/
def execLdImm (x : Nibble) (nn : Byte) (s : State) : Result := .next (s.setV x nn)

/-- ADD Vx, nn (R123): no flag. -/
def execAddImm (x : Nibble) (nn : Byte) (s : State) : Result := .next (s.setV x (s.getV x + nn))

/-- LD Vx, Vy (R124). -/
def execLdReg (x y : Nibble) (s : State) : Result := .next (s.setV x (s.getV y))

/-- OR Vx, Vy (R125): no flag. -/
def execOr (x y : Nibble) (s : State) : Result := .next (s.setV x (s.getV x ||| s.getV y))

/-- AND Vx, Vy (R126): no flag. -/
def execAnd (x y : Nibble) (s : State) : Result := .next (s.setV x (s.getV x &&& s.getV y))

/-- XOR Vx, Vy (R127): no flag. -/
def execXor (x y : Nibble) (s : State) : Result := .next (s.setV x (s.getV x ^^^ s.getV y))

/-- ADD Vx, Vy (R128). -/
def execAddReg (x y : Nibble) (s : State) : Result :=
  .next (s.setFlagAndResult x (carryFlag (s.getV x) (s.getV y)) (s.getV x + s.getV y))

/-- SUB Vx, Vy (R129). -/
def execSub (x y : Nibble) (s : State) : Result :=
  .next (s.setFlagAndResult x (aboveFlag (s.getV x) (s.getV y)) (s.getV x - s.getV y))

/-- SHR Vx (R130): Vy is neither read nor written. -/
def execShr (x _y : Nibble) (s : State) : Result :=
  .next (s.setFlagAndResult x (shiftedOutLow (s.getV x)) (s.getV x >>> 1))

/-- SUBN Vx, Vy (R131). -/
def execSubn (x y : Nibble) (s : State) : Result :=
  .next (s.setFlagAndResult x (aboveFlag (s.getV y) (s.getV x)) (s.getV y - s.getV x))

/-- SHL Vx (R132): Vy is neither read nor written. -/
def execShl (x _y : Nibble) (s : State) : Result :=
  .next (s.setFlagAndResult x (shiftedOutHigh (s.getV x)) (s.getV x <<< 1))

end Sys2Proof.Machine
end

