-- ==== Sys2Proof/Machine/Operands.lean ====
section
/-! DEFINITION. The operand forms of 30_encoding R73: addresses, key codes, the font's glyph, decimal digits, and the blocks V0..Vx. -/

namespace Sys2Proof.Machine

/-- `nnn` as a 16-bit address, zero-extended (R73). -/
def addrOperand (nnn : Addr12) : Word := nnn.setWidth 16

/-- The target of JP V0: nnn + V0 in 16 bits (R141). -/
def jumpV0Target (nnn : Addr12) (v0 : Byte) : Word := addrOperand nnn + v0.setWidth 16

/-- The key that a register's value names: none above 15 (R160). -/
def keyOperand (b : Byte) : Option KeyCode := if h : b.toNat < 16 then some ⟨b.toNat, h⟩ else none

/-- A key code as the value of a register (R164). -/
def keyValue (k : KeyCode) : Byte := BitVec.ofNat 8 k.val

/-- The address of the glyph of a digit: FONT_BASE + 5 * Vx, Vx not masked (R168). -/
def glyphAddr (b : Byte) : Word := BitVec.ofNat 16 (fontBase + fontGlyphBytes * b.toNat)

/-- The hundreds, tens and ones of a byte (R169). -/
def decimalDigits (b : Byte) : List Byte :=
  [BitVec.ofNat 8 (b.toNat / 100), BitVec.ofNat 8 (b.toNat / 10 % 10), BitVec.ofNat 8 (b.toNat % 10)]

/-- How many registers the block V0..Vx has (R73: the range is inclusive). -/
def blockLength (x : Nibble) : Nat := x.toNat + 1

/-- The values of V0..Vx in order (R170). -/
def State.regBlock (s : State) (x : Nibble) : List Byte := s.v.toList.take (blockLength x)

/-- `V[k] <- b` for the listed bytes in order, from register `k` on (R171). -/
def State.loadRegs (s : State) (k : Nat) : List Byte → State
  | [] => s
  | b :: bs => (s.setV (BitVec.ofNat 4 k) b).loadRegs (k + 1) bs

end Sys2Proof.Machine
end

