-- ==== Sys2Proof/Machine/Flow.lean ====
section
/-! DEFINITION. Family 0x0 and control flow (40_flow): each meaning is the execute phase, on the state in which PC = a + 2 (R13). -/

namespace Sys2Proof.Machine

/-- CLS (R100): the word's bits 11..8 are ignored. -/
def execCls (_u : Nibble) (s : State) : Result := .next (s.showScreen (Vector.replicate 32 0))

/-- RET (R101): StackUnderflow when no call is active. -/
def execRet (u : Nibble) (s : State) : Result :=
  match s.pop with
  | none => .next (s.faultAt .stackUnderflow (.ret u))
  | some (w, t) => .next (t.setPc w)

/-- SYS (R102): no operation. -/
def execSys (_nnn : Addr12) (s : State) : Result := .next s

/-- JP (R103). -/
def execJp (nnn : Addr12) (s : State) : Result := .next (s.setPc (addrOperand nnn))

/-- CALL (R104): the pushed value is PC = a + 2; StackOverflow when 16 calls are active. -/
def execCall (nnn : Addr12) (s : State) : Result :=
  match s.push s.pc with
  | none => .next (s.faultAt .stackOverflow (.call nnn))
  | some t => .next (t.setPc (addrOperand nnn))

/-- SE Vx, nn (R105). -/
def execSeImm (x : Nibble) (nn : Byte) (s : State) : Result := .next (s.skipIf (s.getV x == nn))

/-- SNE Vx, nn (R106). -/
def execSneImm (x : Nibble) (nn : Byte) (s : State) : Result := .next (s.skipIf (s.getV x != nn))

/-- SE Vx, Vy (R107). -/
def execSeReg (x y : Nibble) (s : State) : Result := .next (s.skipIf (s.getV x == s.getV y))

/-- SNE Vx, Vy (R108). -/
def execSneReg (x y : Nibble) (s : State) : Result := .next (s.skipIf (s.getV x != s.getV y))

end Sys2Proof.Machine
end

