-- ==== Sys2Proof/Machine/IndexDraw.lean ====
section
/-! DEFINITION. Index, computed jump, random and draw (42_index_draw). -/

namespace Sys2Proof.Machine

/-- LD I, nnn (R140): no check; the range is checked when I is used. -/
def execLdI (nnn : Addr12) (s : State) : Result := .next (s.setI (addrOperand nnn))

/-- JP V0, nnn (R141). -/
def execJpV0 (nnn : Addr12) (s : State) : Result := .next (s.setPc (jumpV0Target nnn (s.getV 0)))

/-- RND Vx, nn (R143): exactly one draw (R142). -/
def execRnd (x : Nibble) (nn : Byte) (s : State) : Result :=
  match s.drawRandom with
  | (r, t) => .next (t.setV x (r &&& nn))

/-- A drawing in progress: the screen and whether a pixel went from on to off (R144). -/
structure Canvas where
  fb : Screen
  collision : Bool
deriving DecidableEq, Repr

/-- Pixel (px, py) of a screen (R36); false outside it. -/
def pixelAt (f : Screen) (px py : Nat) : Bool := if h : py < 32 then (f[py]).getLsbD px else false

/-- `FB[p]`, row-major from the top-left (R36). -/
def fbPixel (f : Screen) (p : Nat) : Bool := pixelAt f (p % 64) (p / 64)

/-- A set sprite bit on pixel (px, py): a collision if it was on, and the pixel inverted (R144, R147). -/
def plot (k : Canvas) (px py : Nat) : Canvas :=
  if h : py < 32 then
    { fb := k.fb.set py (k.fb[py] ^^^ (1#64 <<< px)) h
      collision := k.collision || (k.fb[py]).getLsbD px }
  else k

/-- Column `c` of row `r` of a sprite at (xs, ys): bit 7 - c of the row's byte, at the wrapped position (R146). -/
def drawBit (xs ys r : Nat) (b : Byte) (k : Canvas) (c : Nat) : Canvas :=
  if b.getLsbD (7 - c) then plot k ((xs + c) % 64) ((ys + r) % 32) else k

/-- One row of a sprite, its 8 columns from the left (R144). -/
def drawRow (xs ys r : Nat) (b : Byte) (k : Canvas) : Canvas := [0, 1, 2, 3, 4, 5, 6, 7].foldl (drawBit xs ys r b) k

/-- The rows of a sprite from row `r` on, one byte a row (R144). -/
def drawRows (xs ys : Nat) : Nat → List Byte → Canvas → Canvas
  | _, [], k => k
  | r, b :: bs, k => drawRows xs ys (r + 1) bs (drawRow xs ys r b k)

/-- The draw of a sprite at (xs, ys) on a screen, from no collision (R144). -/
def drawSprite (f : Screen) (xs ys : Nat) (sprite : List Byte) : Canvas := drawRows xs ys 0 sprite ⟨f, false⟩

/-- DRW Vx, Vy, n (R144): the coordinates are read before VF is written; with n = 0 no address is formed and no check made (R145). -/
def execDrw (x y n : Nibble) (s : State) : Result :=
  if n.toNat = 0 ∨ inBounds s.i.toNat n.toNat then
    let k := drawSprite s.fb (s.getV x).toNat (s.getV y).toNat (Memory.readBytes s.mem s.i.toNat n.toNat)
    .next ((s.setV regVF (flagByte k.collision)).showScreen k.fb)
  else .next (s.faultAt .outOfBounds (.drw x y n))

end Sys2Proof.Machine
end

