-- ==== Sys2Proof/Machine/KeysTimersMem.lean ====
section
/-! DEFINITION. Keys, timers, index arithmetic and block transfers (43_keys_timers_mem). -/

namespace Sys2Proof.Machine

/-- SKP Vx (R161): OutOfBounds when Vx names no key (R160). -/
def execSkp (x : Nibble) (s : State) : Result :=
  match keyOperand (s.getV x) with
  | none => .next (s.faultAt .outOfBounds (.skp x))
  | some k => .next (s.skipIf (s.keyState k))

/-- SKNP Vx (R162): OutOfBounds when Vx names no key (R160). -/
def execSknp (x : Nibble) (s : State) : Result :=
  match keyOperand (s.getV x) with
  | none => .next (s.faultAt .outOfBounds (.sknp x))
  | some k => .next (s.skipIf (!s.keyState k))

/-- LD Vx, DT (R163). -/
def execLdVxDt (x : Nibble) (s : State) : Result := .next (s.setV x s.dt)

/-- LD Vx, K (R164): no key latched, PC back by 2, so that the same instruction runs on the next CPU tick. -/
def execLdVxK (x : Nibble) (s : State) : Result :=
  match s.latch with
  | none => .next (s.setPc (s.pc - 2))
  | some k => .next ((s.setV x (keyValue k)).setLatch none)

/-- LD DT, Vx (R165). -/
def execLdDtVx (x : Nibble) (s : State) : Result := .next (s.setDt (s.getV x))

/-- LD ST, Vx (R166): the instruction itself emits no audio trigger. -/
def execLdStVx (x : Nibble) (s : State) : Result := .next (s.setSt (s.getV x))

/-- ADD I, Vx (R167): modulo 2^16, no flag. -/
def execAddIVx (x : Nibble) (s : State) : Result := .next (s.setI (s.i + (s.getV x).setWidth 16))

/-- LD F, Vx (R168). -/
def execLdFVx (x : Nibble) (s : State) : Result := .next (s.setI (glyphAddr (s.getV x)))

/-- LD B, Vx (R169): I is not changed. -/
def execLdBVx (x : Nibble) (s : State) : Result :=
  if inBounds s.i.toNat 3 then .next (s.storeBytes s.i.toNat (decimalDigits (s.getV x)))
  else .next (s.faultAt .outOfBounds (.ldBVx x))

/-- LD [I], Vx (R170): V0..Vx, I is not changed. -/
def execLdMemVx (x : Nibble) (s : State) : Result :=
  if inBounds s.i.toNat (blockLength x) then .next (s.storeBytes s.i.toNat (s.regBlock x))
  else .next (s.faultAt .outOfBounds (.ldMemVx x))

/-- LD Vx, [I] (R171): V0..Vx, I is not changed. -/
def execLdVxMem (x : Nibble) (s : State) : Result :=
  if inBounds s.i.toNat (blockLength x) then
    .next (s.loadRegs 0 (Memory.readBytes s.mem s.i.toNat (blockLength x)))
  else .next (s.faultAt .outOfBounds (.ldVxMem x))

end Sys2Proof.Machine
end

