-- ==== Sys2Proof/Machine/Cycle.lean ====
section
/-! DEFINITION. The three agents' steps (60_exceptions R228): the CPU tick (R250), the timer tick (R226) and the host's control surface
(R230 to R235). -/

namespace Sys2Proof.Machine

/-! ## The CPU activity -/

/-- The CPU activity has a step: RUNNING and FAULT = none (R40). -/
def State.cpuEnabled (s : State) : Bool := s.running && s.fault.isNone

/-- The fetched word, none when PC + 1 > 0xFFF (R54). -/
def State.fetch (s : State) : Option Word := if inBounds s.pc.toNat 2 then some (s.wordAt s.pc.toNat) else none

/-- The trace line of a step that did not fault (R223): a step that faults emits none (R206). -/
def State.tracedUnlessFault (s : State) (kind : String) (a op : Word) : State :=
  if s.fault.isNone then s.traced kind a op else s

/-- Decode and execute the word `op` fetched at `a`; PC is already advanced (R250). An unknown word changes nothing (R210). -/
def State.runWord (s : State) (a op : Word) : Result :=
  match decodeWord op with
  | .error _ => .next (s.tracedUnlessFault "unknown" a op)
  | .ok ins =>
    match exec ins s with
    | .next t => .next (t.tracedUnlessFault ins.mnemonic a op)
    | .fault r => .fault r
    | .refused r => .refused r

/-- One fetch-decode-execute cycle (R250), enabled or not. -/
def State.cycle (s : State) : Result :=
  match s.fetch with
  | none => .next (s.takeFault .outOfBounds s.pc 0)
  | some op => (s.setPc (s.pc + 2)).runWord s.pc op

/-- One turn of the CPU activity: where it has no step, the machine stays where it is (R40; 93 `stuck`, U26; log entry 2). -/
def cpuTick (s : State) : Result := if s.cpuEnabled then s.cycle else .next s

/-! ## The timer activity -/

/-- A timer that is above 0 counts down (R226). -/
def countDown (b : Byte) : Byte := if b = 0 then 0 else b - 1

/-- One timer tick (R226): an AudioTrigger when ST > 0 before the decrement (R222). -/
def State.tickTimers (s : State) : State :=
  { s with
    dt := countDown s.dt
    st := countDown s.st
    history := if s.st = 0 then s.history else s.history ++ [.audioTrigger] }

/-- One turn of the timer activity: it steps while RUNNING, whether or not FAULT is set (R227). -/
def timerTick (s : State) : Result := .next (if s.running then s.tickTimers else s)

/-! ## The host -/

/-- Reset (R240): every field of R20 but RUNNING. TRACE_ENABLED, the port history, and the model's own fields are not touched. -/
def State.resetFields (s : State) : State :=
  { State.reset with
    running := s.running
    traceEnabled := s.traceEnabled
    history := s.history
    draws := s.draws
    stamps := s.stamps
    schedule := s.schedule }

/-- `loadRom(bytes)` (R230): a full reset, then RomTooLarge with nothing copied (R205), or the copy to 0x200 and RUNNING. -/
def loadRom (bytes : List Byte) (s : State) : Result :=
  let t := (s.setRunning false).resetFields
  if Config.maxRom < bytes.length then
    .next (t.takeFault .romTooLarge (BitVec.ofNat 16 Config.loadAddr) 0)
  else .next ((t.storeBytes Config.loadAddr bytes).setRunning true)

/-- `stop()` (R231). -/
def stopActivities (s : State) : Result := .next (s.setRunning false)

/-- `resume()` (R232): FAULT is not cleared. -/
def resumeActivities (s : State) : Result := .next (s.setRunning true)

/-- `setKey(k)` (R233): pressed, and latched as the last pressed; refused outside 0..15 (log entry 15). -/
def pressKey (code : Nat) (s : State) : Result :=
  if h : code < 16 then .next ((s.setKeyState ⟨code, h⟩ true).setLatch (some ⟨code, h⟩))
  else .refused (.keyCodeOutsideContract code)

/-- `clearKey(k)` (R234): LATCH is not changed; refused outside 0..15 (log entry 15). -/
def releaseKey (code : Nat) (s : State) : Result :=
  if h : code < 16 then .next (s.setKeyState ⟨code, h⟩ false)
  else .refused (.keyCodeOutsideContract code)

/-- The host changes TRACE_ENABLED (R39, R235). -/
def changeTrace (on : Bool) (s : State) : Result := .next { s with traceEnabled := on }

/-! ## One atomic step of an agent (R15) -/

/-- The step that an entry of the interleaving stands for. -/
def agentStep (e : AgentStep) (s : State) : Result :=
  match e with
  | .cpuTick => cpuTick s
  | .timerTick => timerTick s
  | .loadRom bytes => loadRom bytes s
  | .stop => stopActivities s
  | .resume => resumeActivities s
  | .setKey code => pressKey code s
  | .clearKey code => releaseKey code s
  | .setTrace on => changeTrace on s

/-- The step the interleaving has next: the head of the schedule, or a CPU tick when nothing is scheduled (R228; log entry 3). -/
def State.nextAgent (s : State) : AgentStep := s.schedule.headD .cpuTick

/-- The state in which that step is taken from the schedule. -/
def State.dequeue (s : State) : State := { s with schedule := s.schedule.tail }

/-- The state in which an instruction's bytes stand where the next step fetches, and the next step is a CPU tick (log entry 17). -/
def State.placeWord (s : State) (w : Word) : State :=
  let a : Word := if inBounds s.pc.toNat 2 then s.pc else BitVec.ofNat 16 Config.loadAddr
  { (s.storeBytes a.toNat [highByte w, lowByte w]) with
    pc := a
    running := true
    fault := none
    schedule := .cpuTick :: s.schedule }

end Sys2Proof.Machine
end

