-- ==== Sys2Proof/Machine/Step.lean ====
section
/-! DEFINITION. One step of the machine: the next atomic step of the interleaving (00_scope R15, 60_exceptions R228). -/

namespace Sys2Proof.Machine

/-- The next step of the interleaving (log entry 3). -/
def step (s : State) : Host.Outcome State Fault Refusal := agentStep s.nextAgent s.dequeue

/-- `s` with a table row's instruction stored where the next step fetches it, and all that it takes for that step to be a CPU tick (log
entry 17). -/
def State.withFetchWord (s : State) (nbits w : Nat) : State := s.placeWord (tableWord nbits w)

end Sys2Proof.Machine
end

