-- ==== Sys2Proof/Safety.lean ====
section
/-! DEFINITION. The terms claims use: what a state of a run is (70_reset R258), the invariant of the machine, the spec's own tables of what an
instruction may write (10_state R23, R24, 00_scope R13) and of when it faults (60_exceptions R201 to R204), the pixels a sprite sets
(42_index_draw R146), and runs of the three agents with their fairness (60_exceptions R228). -/

namespace Sys2Proof.Machine

/-! ## The states of a run (R258) -/

/-- Faulted: FAULT ≠ none (R258). -/
def State.isFaulted (s : State) : Bool := s.fault.isSome

/-- At its end: no fault, PC ≤ 0xFFE, and the word at PC is a JP to PC (R110, R258). -/
def State.isAtEnd (s : State) : Bool :=
  s.fault.isNone && decide (s.pc.toNat ≤ 0xFFE) && decide ((s.wordAt s.pc.toNat).toNat = 0x1000 + s.pc.toNat)

/-- Running: neither faulted nor at its end (R258). -/
def State.isRunning (s : State) : Bool := !s.isFaulted && !s.isAtEnd

/-! ## The invariant -/

/-- What holds of the record of a fault while it stands (R205, R206, R207, R208): PC is the recorded address, the report is on the port
history, and the stack is as the fault's own check found it (R202, R203). -/
def State.faultStands (s : State) : Prop :=
  match s.fault with
  | none => True
  | some f =>
    s.pc = f.addr ∧ PortEvent.faultReport f.kind f.addr f.opcode ∈ s.history ∧
      (f.kind = .stackOverflow → s.sp.val = 16) ∧ (f.kind = .stackUnderflow → s.sp.val = 0) ∧
      (f.kind = .romTooLarge → f.addr = 0x200 ∧ f.opcode = 0)

/-- The invariant that every step keeps: memory is in its canonical form, and a standing fault is precise. -/
def State.Inv (s : State) : Prop := Memory.wf s.mem = true ∧ s.faultStands

/-! ## What an instruction may write -/

/-- R24's column "writes", with R23's flags: the registers an instruction may write. -/
def mayWriteV : Instr → Nibble → Bool
  | .ldImm x _, r | .addImm x _, r | .ldReg x _, r | .orReg x _, r | .andReg x _, r | .xorReg x _, r | .rnd x _, r
  | .ldVxDt x, r | .ldVxK x, r => r == x
  | .addReg x _, r | .sub x _, r | .shr x _, r | .subn x _, r | .shl x _, r => r == x || r == 0xF
  | .drw _ _ _, r => r == 0xF
  | .ldVxMem x, r => decide (r.toNat ≤ x.toNat)
  | _, _ => false

/-- How many cells from I on an instruction may write (R55). -/
def storeLength : Instr → Nat
  | .ldBVx _ => 3
  | .ldMemVx x => x.toNat + 1
  | _ => 0

/-- The instructions that write I (R29). -/
def mayWriteI : Instr → Bool
  | .ldI _ | .addIVx _ | .ldFVx _ => true
  | _ => false

/-- The instructions that write the stack and SP (R30). -/
def mayWriteStack : Instr → Bool
  | .call _ | .ret _ => true
  | _ => false

/-- The instructions that write the framebuffer (R36). -/
def mayWriteFb : Instr → Bool
  | .cls _ | .drw _ _ _ => true
  | _ => false

/-- The instruction that writes DT (R33). -/
def mayWriteDt : Instr → Bool
  | .ldDtVx _ => true
  | _ => false

/-- The instruction that writes ST (R33). -/
def mayWriteSt : Instr → Bool
  | .ldStVx _ => true
  | _ => false

/-- The instruction that writes LATCH (R38). -/
def mayWriteLatch : Instr → Bool
  | .ldVxK _ => true
  | _ => false

/-- The instruction that draws from RANDOM (R142). -/
def mayDraw : Instr → Bool
  | .rnd _ _ => true
  | _ => false

/-! ## When an instruction faults (R201 to R204) -/

/-- The fault an instruction raises in a state, from the table of R201 and the conditions of R202, R203 and R204. -/
def faultOf (s : State) : Instr → Option FaultKind
  | .call _ => if s.sp.val = 16 then some .stackOverflow else none
  | .ret _ => if s.sp.val = 0 then some .stackUnderflow else none
  | .drw _ _ n => if 0 < n.toNat ∧ 0xFFF < s.i.toNat + n.toNat - 1 then some .outOfBounds else none
  | .ldBVx _ => if 0xFFF < s.i.toNat + 2 then some .outOfBounds else none
  | .ldMemVx x | .ldVxMem x => if 0xFFF < s.i.toNat + x.toNat then some .outOfBounds else none
  | .skp x | .sknp x => if 15 < (s.getV x).toNat then some .outOfBounds else none
  | _ => none

/-- The state after a fault that the word `w` raises in its execute phase, written out from R206: PC is the instruction's own address
(PC - 2, R13), FAULT holds the record, one report is appended, and nothing else is written. -/
def State.afterFault (s : State) (kind : FaultKind) (w : Word) : State :=
  { s with
    pc := s.pc - 2
    fault := some ⟨kind, s.pc - 2, w⟩
    history := s.history ++ [.faultReport kind (s.pc - 2) w] }

/-- The state after the trace line of a step (R223): one line, only when TRACE_ENABLED and only when the step did not fault. -/
def State.afterTrace (s : State) (kind : String) (a op : Word) : State :=
  if s.traceEnabled = true ∧ s.fault = none then
    { s with
      history := s.history ++ [.trace ⟨Config.hostClock s.stamps, Config.traceText kind a op⟩]
      stamps := s.stamps + 1 }
  else s

/-! ## The pixels of a sprite (R146) -/

/-- A set bit of the `n`-row sprite at I, drawn at (xs, ys), lands on pixel (px, py) (R146). -/
def SpriteSets (s : State) (xs ys n px py : Nat) : Prop :=
  ∃ r c, r < n ∧ c < 8 ∧ (s.readByte (s.i.toNat + r)).getLsbD (7 - c) = true ∧
    px = (xs + c) % 64 ∧ py = (ys + r) % 32

/-! ## Runs of the three agents (R228) -/

/-- An infinite run: the n-th step is the step of the n-th entry of the interleaving. -/
def IsRun (ev : Nat → AgentStep) (run : Nat → State) : Prop :=
  ∀ n, agentStep (ev n) (run n) = .next (run (n + 1))

/-- Weak fairness of one activity: from every point on, if it is enabled in every later state, it steps at some later point. Where it
stays enabled it so steps infinitely often, however the run began. -/
def WeaklyFair (enabled : State → Bool) (agent : AgentStep) (ev : Nat → AgentStep) (run : Nat → State) : Prop :=
  ∀ n, (∀ m, n ≤ m → enabled (run m) = true) → ∃ m, n ≤ m ∧ ev m = agent

/-- Fairness (R228, D21: weak fairness of the two activities): the timer activity where RUNNING stays true, the CPU activity where RUNNING
stays true and no fault stands (R40). A loadRom that clears a fault binds the CPU activity again. -/
def FairRun (ev : Nat → AgentStep) (run : Nat → State) : Prop :=
  IsRun ev run ∧ WeaklyFair (fun s => s.running) .timerTick ev run ∧ WeaklyFair State.cpuEnabled .cpuTick ev run

end Sys2Proof.Machine
end

