-- ==== Sys2Proof/Certificates/Slice0/Obligations.lean ====
section
/-! DEFINITION. The statements for the provers, from the spec's numbered rules. In a statement about an instruction the state `s` is the one
of its execute phase, in which PC = a + 2 (00_scope R13). -/

open Sys2Proof Sys2Proof.Machine

/-! ## Encoding (30_encoding) -/

/-- R71 to R79: decoding the word of any well-formed operation gives it back, every operand at every value. -/
def Obligations.DecodeOfEncodeIsIdentity : Prop :=
  ∀ i : Instr, WellFormed i → decodeWord (encode i) = .ok i

/-- R74 to R81: the word an operation was read from is its own encoding, so no bit of a word is lost, and what is read is well formed. -/
def Obligations.EncodeOfDecodeIsIdentity : Prop :=
  ∀ (w : Word) (i : Instr), decodeWord w = .ok i → encode i = w ∧ WellFormed i

/-- R80, its list of words: exactly these decode to no operation. -/
def Obligations.UnknownWordsAreThoseListed : Prop :=
  ∀ w : Word, (∃ e, decodeWord w = .error e) ↔
    (w.toNat / 4096 = 0x5 ∧ w.toNat % 16 ≠ 0) ∨
    (w.toNat / 4096 = 0x8 ∧ w.toNat % 16 ∈ [0x8, 0x9, 0xA, 0xB, 0xC, 0xD, 0xF]) ∨
    (w.toNat / 4096 = 0x9 ∧ w.toNat % 16 ≠ 0) ∨
    (w.toNat / 4096 = 0xE ∧ w.toNat % 256 ∉ [0x9E, 0xA1]) ∨
    (w.toNat / 4096 = 0xF ∧ w.toNat % 256 ∉ [0x07, 0x0A, 0x15, 0x18, 0x1E, 0x29, 0x33, 0x55, 0x65])

/-- The four words the source itself gives (30_encoding's opening), and a word of each other family. -/
def Obligations.SampleWordsDecode : Prop :=
  decodeWord 0x00E0 = .ok (.cls 0x0) ∧ decodeWord 0x6005 = .ok (.ldImm 0x0 0x05) ∧
  decodeWord 0x7003 = .ok (.addImm 0x0 0x03) ∧ decodeWord 0x5001 = .error .unknownFamily5 ∧
  decodeWord 0x2300 = .ok (.call 0x300) ∧ decodeWord 0x8124 = .ok (.addReg 0x1 0x2) ∧
  decodeWord 0xD015 = .ok (.drw 0x0 0x1 0x5) ∧ decodeWord 0xE29E = .ok (.skp 0x2) ∧
  decodeWord 0xF333 = .ok (.ldBVx 0x3)

/-! ## The CPU cycle and the interleaving (60_exceptions, 70_reset_and_hazards) -/

/-- R250: when the bytes at PC decode to `i`, the step is `exec i` on the state in which PC is advanced by 2 (and this step taken from the
schedule), with the trace line of R223 after it. -/
def Obligations.StepRunsTheDecodedInstruction : Prop :=
  ∀ (s : State) (i : Instr), s.nextAgent = .cpuTick → s.running = true → s.fault = none → s.pc.toNat ≤ 0xFFE →
    decodeWord (s.readByte s.pc.toNat ++ s.readByte (s.pc.toNat + 1)) = .ok i →
    step s =
      match exec i { s with pc := s.pc + 2, schedule := s.schedule.tail } with
      | .next t => .next (t.afterTrace i.mnemonic s.pc (s.readByte s.pc.toNat ++ s.readByte (s.pc.toNat + 1)))
      | .fault r => .fault r
      | .refused r => .refused r

/-- R54: a CPU tick whose fetch is at PC ≥ 0xFFF faults, with addr = PC and opcode = 0, and nothing else changes. -/
def Obligations.FetchBeyondMemoryFaults : Prop :=
  ∀ s : State, s.running = true → s.fault = none → 0xFFF ≤ s.pc.toNat →
    agentStep .cpuTick s = .next { s with
      fault := some ⟨.outOfBounds, s.pc, 0⟩
      history := s.history ++ [.faultReport .outOfBounds s.pc 0] }

/-- R210: a CPU tick at an unknown word is no fault; PC advances by 2, a diagnostic trace line is emitted when TRACE_ENABLED, nothing else
changes. -/
def Obligations.UnknownWordIsNoOperation : Prop :=
  ∀ (s : State) (e : DecodeError), s.running = true → s.fault = none → s.pc.toNat ≤ 0xFFE →
    decodeWord (s.readByte s.pc.toNat ++ s.readByte (s.pc.toNat + 1)) = .error e →
    agentStep .cpuTick s = .next (({ s with pc := s.pc + 2 } : State).afterTrace "unknown" s.pc
      (s.readByte s.pc.toNat ++ s.readByte (s.pc.toNat + 1)))

/-- R40 and R227, with the model's choice of log entry 2: an activity that has no step leaves the machine as it is. -/
def Obligations.HaltedActivitiesLeaveTheState : Prop :=
  (∀ s : State, s.running = false ∨ s.fault ≠ none → agentStep .cpuTick s = .next s) ∧
  (∀ s : State, s.running = false → agentStep .timerTick s = .next s)

/-- R15 and R228, with the model's choice of log entry 3: a step is the scheduled agent's step, and a CPU tick when none is scheduled. -/
def Obligations.StepFollowsTheSchedule : Prop :=
  (∀ (s : State) (e : AgentStep) (rest : List AgentStep), s.schedule = e :: rest →
    step s = agentStep e { s with schedule := rest }) ∧
  (∀ s : State, s.schedule = [] → step s = agentStep .cpuTick s)

/-! ## Family 0x0 and control flow (40_flow) -/

/-- R100. -/
def Obligations.ClsClearsTheScreen : Prop :=
  ∀ (u : Nibble) (s : State), decodeWord (0x0#4 ++ u ++ 0xE0#8) = .ok (.cls u) ∧
    ∃ t, exec (.cls u) s = .next t ∧ (∀ p, p < 2048 → fbPixel t.fb p = false) ∧
      t = { s with fb := t.fb, history := s.history ++ [.framebufferUpdate t.fb] }

/-- R101, R203. -/
def Obligations.RetPopsOrUnderflows : Prop :=
  ∀ (u : Nibble) (s : State), decodeWord (0x0#4 ++ u ++ 0xEE#8) = .ok (.ret u) ∧
    (s.sp.val = 0 → exec (.ret u) s = .next (s.afterFault .stackUnderflow (0x0#4 ++ u ++ 0xEE#8))) ∧
    (∀ (k : Nat) (hk : k < 16), s.sp.val = k + 1 →
      ∃ t, exec (.ret u) s = .next t ∧ t.pc = s.stack[k] ∧ t.sp.val = k ∧ t = { s with pc := t.pc, sp := t.sp })

/-- R102: the words of SYS are those of family 0 whose low byte is neither E0 nor EE. -/
def Obligations.SysIsNoOperation : Prop :=
  ∀ (nnn : Addr12) (s : State),
    (nnn.toNat % 256 ≠ 0xE0 → nnn.toNat % 256 ≠ 0xEE → decodeWord (0x0#4 ++ nnn) = .ok (.sys nnn)) ∧
    exec (.sys nnn) s = .next s

/-- R103. -/
def Obligations.JpJumps : Prop :=
  ∀ (nnn : Addr12) (s : State), decodeWord (0x1#4 ++ nnn) = .ok (.jp nnn) ∧
    ∃ t, exec (.jp nnn) s = .next t ∧ t.pc.toNat = nnn.toNat ∧ t = { s with pc := t.pc }

/-- R104, R202. -/
def Obligations.CallPushesOrOverflows : Prop :=
  ∀ (nnn : Addr12) (s : State), decodeWord (0x2#4 ++ nnn) = .ok (.call nnn) ∧
    (s.sp.val = 16 → exec (.call nnn) s = .next (s.afterFault .stackOverflow (0x2#4 ++ nnn))) ∧
    (∀ (k : Nat) (hk : k < 16), s.sp.val = k →
      ∃ t, exec (.call nnn) s = .next t ∧ t.sp.val = k + 1 ∧ t.stack[k] = s.pc ∧
        (∀ (j : Nat) (hj : j < 16), j ≠ k → t.stack[j] = s.stack[j]) ∧ t.pc.toNat = nnn.toNat ∧
        t = { s with pc := t.pc, sp := t.sp, stack := t.stack })

/-- R105, R106. -/
def Obligations.ImmediateSkips : Prop :=
  ∀ (x : Nibble) (nn : Byte) (s : State),
    decodeWord (0x3#4 ++ x ++ nn) = .ok (.seImm x nn) ∧ decodeWord (0x4#4 ++ x ++ nn) = .ok (.sneImm x nn) ∧
    exec (.seImm x nn) s = .next { s with pc := if s.getV x = nn then s.pc + 2 else s.pc } ∧
    exec (.sneImm x nn) s = .next { s with pc := if s.getV x = nn then s.pc else s.pc + 2 }

/-- R107, R108. -/
def Obligations.RegisterSkips : Prop :=
  ∀ (x y : Nibble) (s : State),
    decodeWord (0x5#4 ++ x ++ y ++ 0x0#4) = .ok (.seReg x y) ∧ decodeWord (0x9#4 ++ x ++ y ++ 0x0#4) = .ok (.sneReg x y) ∧
    exec (.seReg x y) s = .next { s with pc := if s.getV x = s.getV y then s.pc + 2 else s.pc } ∧
    exec (.sneReg x y) s = .next { s with pc := if s.getV x = s.getV y then s.pc else s.pc + 2 }

/-! ## Register arithmetic (41_alu) -/

/-- R122, R124. -/
def Obligations.LoadsOfARegister : Prop :=
  ∀ (x y : Nibble) (nn : Byte) (s : State),
    decodeWord (0x6#4 ++ x ++ nn) = .ok (.ldImm x nn) ∧ decodeWord (0x8#4 ++ x ++ y ++ 0x0#4) = .ok (.ldReg x y) ∧
    (∃ t, exec (.ldImm x nn) s = .next t ∧ t.getV x = nn ∧ (∀ r, r ≠ x → t.getV r = s.getV r) ∧ t = { s with v := t.v }) ∧
    (∃ t, exec (.ldReg x y) s = .next t ∧ t.getV x = s.getV y ∧ (∀ r, r ≠ x → t.getV r = s.getV r) ∧
      t = { s with v := t.v })

/-- R123. -/
def Obligations.AddImmediateWraps : Prop :=
  ∀ (x : Nibble) (nn : Byte) (s : State), decodeWord (0x7#4 ++ x ++ nn) = .ok (.addImm x nn) ∧
    ∃ t, exec (.addImm x nn) s = .next t ∧ (t.getV x).toNat = ((s.getV x).toNat + nn.toNat) % 256 ∧
      (∀ r, r ≠ x → t.getV r = s.getV r) ∧ t = { s with v := t.v }

/-- R125, R126, R127, bit by bit. -/
def Obligations.BitwiseOperations : Prop :=
  ∀ (x y : Nibble) (s : State),
    decodeWord (0x8#4 ++ x ++ y ++ 0x1#4) = .ok (.orReg x y) ∧ decodeWord (0x8#4 ++ x ++ y ++ 0x2#4) = .ok (.andReg x y) ∧
    decodeWord (0x8#4 ++ x ++ y ++ 0x3#4) = .ok (.xorReg x y) ∧
    (∃ t, exec (.orReg x y) s = .next t ∧
      (∀ k, k < 8 → (t.getV x).getLsbD k = ((s.getV x).getLsbD k || (s.getV y).getLsbD k)) ∧
      (∀ r, r ≠ x → t.getV r = s.getV r) ∧ t = { s with v := t.v }) ∧
    (∃ t, exec (.andReg x y) s = .next t ∧
      (∀ k, k < 8 → (t.getV x).getLsbD k = ((s.getV x).getLsbD k && (s.getV y).getLsbD k)) ∧
      (∀ r, r ≠ x → t.getV r = s.getV r) ∧ t = { s with v := t.v }) ∧
    (∃ t, exec (.xorReg x y) s = .next t ∧
      (∀ k, k < 8 → (t.getV x).getLsbD k = ((s.getV x).getLsbD k ^^ (s.getV y).getLsbD k)) ∧
      (∀ r, r ≠ x → t.getV r = s.getV r) ∧ t = { s with v := t.v })

/-- R128 with R121's order: for x = F the result wins; the operands are the registers before any write. -/
def Obligations.AddRegisterSetsCarry : Prop :=
  ∀ (x y : Nibble) (s : State), decodeWord (0x8#4 ++ x ++ y ++ 0x4#4) = .ok (.addReg x y) ∧
    ∃ t, exec (.addReg x y) s = .next t ∧ (t.getV x).toNat = ((s.getV x).toNat + (s.getV y).toNat) % 256 ∧
      (x ≠ 0xF → t.getV 0xF = if (s.getV x).toNat + (s.getV y).toNat > 255 then 1 else 0) ∧
      (∀ r, r ≠ x → r ≠ 0xF → t.getV r = s.getV r) ∧ t = { s with v := t.v }

/-- R129 with R121's order: the flag is Vx > Vy, strictly. -/
def Obligations.SubtractSetsFlag : Prop :=
  ∀ (x y : Nibble) (s : State), decodeWord (0x8#4 ++ x ++ y ++ 0x5#4) = .ok (.sub x y) ∧
    ∃ t, exec (.sub x y) s = .next t ∧ (t.getV x).toNat = (256 + (s.getV x).toNat - (s.getV y).toNat) % 256 ∧
      (x ≠ 0xF → t.getV 0xF = if (s.getV x).toNat > (s.getV y).toNat then 1 else 0) ∧
      (∀ r, r ≠ x → r ≠ 0xF → t.getV r = s.getV r) ∧ t = { s with v := t.v }

/-- R130 with R121's order: y is ignored. -/
def Obligations.ShiftRightSetsFlag : Prop :=
  ∀ (x y : Nibble) (s : State), decodeWord (0x8#4 ++ x ++ y ++ 0x6#4) = .ok (.shr x y) ∧
    ∃ t, exec (.shr x y) s = .next t ∧ (t.getV x).toNat = (s.getV x).toNat / 2 ∧
      (x ≠ 0xF → (t.getV 0xF).toNat = (s.getV x).toNat % 2) ∧
      (∀ r, r ≠ x → r ≠ 0xF → t.getV r = s.getV r) ∧ t = { s with v := t.v }

/-- R131 with R121's order: the flag is Vy > Vx, strictly. -/
def Obligations.ReverseSubtractSetsFlag : Prop :=
  ∀ (x y : Nibble) (s : State), decodeWord (0x8#4 ++ x ++ y ++ 0x7#4) = .ok (.subn x y) ∧
    ∃ t, exec (.subn x y) s = .next t ∧ (t.getV x).toNat = (256 + (s.getV y).toNat - (s.getV x).toNat) % 256 ∧
      (x ≠ 0xF → t.getV 0xF = if (s.getV y).toNat > (s.getV x).toNat then 1 else 0) ∧
      (∀ r, r ≠ x → r ≠ 0xF → t.getV r = s.getV r) ∧ t = { s with v := t.v }

/-- R132 with R121's order: y is ignored. -/
def Obligations.ShiftLeftSetsFlag : Prop :=
  ∀ (x y : Nibble) (s : State), decodeWord (0x8#4 ++ x ++ y ++ 0xE#4) = .ok (.shl x y) ∧
    ∃ t, exec (.shl x y) s = .next t ∧ (t.getV x).toNat = (s.getV x).toNat * 2 % 256 ∧
      (x ≠ 0xF → (t.getV 0xF).toNat = (s.getV x).toNat / 128) ∧
      (∀ r, r ≠ x → r ≠ 0xF → t.getV r = s.getV r) ∧ t = { s with v := t.v }

/-! ## Index, computed jump, random and draw (42_index_draw) -/

/-- R140. -/
def Obligations.LoadIndex : Prop :=
  ∀ (nnn : Addr12) (s : State), decodeWord (0xA#4 ++ nnn) = .ok (.ldI nnn) ∧
    ∃ t, exec (.ldI nnn) s = .next t ∧ t.i.toNat = nnn.toNat ∧ t = { s with i := t.i }

/-- R141. -/
def Obligations.JumpPlusV0 : Prop :=
  ∀ (nnn : Addr12) (s : State), decodeWord (0xB#4 ++ nnn) = .ok (.jpV0 nnn) ∧
    ∃ t, exec (.jpV0 nnn) s = .next t ∧ t.pc.toNat = nnn.toNat + (s.getV 0x0).toNat ∧ t = { s with pc := t.pc }

/-- R143: the draw is the free value `Config.randomByte` (log entry 6), taken once; a bit that nn has not is 0 for every draw. -/
def Obligations.RandomIsMasked : Prop :=
  ∀ (x : Nibble) (nn : Byte) (s : State), decodeWord (0xC#4 ++ x ++ nn) = .ok (.rnd x nn) ∧
    ∃ t, exec (.rnd x nn) s = .next t ∧ t.getV x = Config.randomByte s.draws &&& nn ∧
      (∀ k, nn.getLsbD k = false → (t.getV x).getLsbD k = false) ∧
      (∀ r, r ≠ x → t.getV r = s.getV r) ∧ t = { s with v := t.v, draws := s.draws + 1 }

/-- R144 to R148. With n = 0 or the rows in memory, a pixel is inverted exactly when a set bit of the sprite lands on it, VF is 1 exactly when
one lands on a lit pixel, one update is emitted, and nothing else changes; otherwise OutOfBounds. -/
def Obligations.DrawXorsTheSprite : Prop :=
  ∀ (x y n : Nibble) (s : State), decodeWord (0xD#4 ++ x ++ y ++ n) = .ok (.drw x y n) ∧
    (n.toNat = 0 ∨ s.i.toNat + n.toNat - 1 ≤ 0xFFF →
      ∃ t, exec (.drw x y n) s = .next t ∧
        (∀ px py, px < 64 → py < 32 →
          (SpriteSets s (s.getV x).toNat (s.getV y).toNat n.toNat px py → fbPixel t.fb (py * 64 + px) = !fbPixel s.fb (py * 64 + px)) ∧
          (¬SpriteSets s (s.getV x).toNat (s.getV y).toNat n.toNat px py → fbPixel t.fb (py * 64 + px) = fbPixel s.fb (py * 64 + px))) ∧
        ((∃ px py, SpriteSets s (s.getV x).toNat (s.getV y).toNat n.toNat px py ∧ fbPixel s.fb (py * 64 + px) = true) →
          t.getV 0xF = 1) ∧
        ((¬∃ px py, SpriteSets s (s.getV x).toNat (s.getV y).toNat n.toNat px py ∧ fbPixel s.fb (py * 64 + px) = true) →
          t.getV 0xF = 0) ∧
        (∀ r, r ≠ 0xF → t.getV r = s.getV r) ∧
        t = { s with v := t.v, fb := t.fb, history := s.history ++ [.framebufferUpdate t.fb] }) ∧
    (n.toNat ≠ 0 → 0xFFF < s.i.toNat + n.toNat - 1 →
      exec (.drw x y n) s = .next (s.afterFault .outOfBounds (0xD#4 ++ x ++ y ++ n)))

/-- The source's "draw idempotence" (95 W5): a sprite drawn again at the same place (VF, if it is a coordinate, unchanged by the first
draw) restores the screen, and the second draw collides exactly when the first one lit a pixel. -/
def Obligations.DrawTwiceRestoresTheScreen : Prop :=
  ∀ (x y n : Nibble) (s t : State), n.toNat = 0 ∨ s.i.toNat + n.toNat - 1 ≤ 0xFFF →
    exec (.drw x y n) s = .next t → t.getV x = s.getV x → t.getV y = s.getV y →
    ∃ u, exec (.drw x y n) t = .next u ∧ u.fb = s.fb ∧
      (u.getV 0xF = 1 ↔
        ∃ px py, px < 64 ∧ py < 32 ∧ fbPixel s.fb (py * 64 + px) = false ∧ fbPixel t.fb (py * 64 + px) = true)

/-! ## Keys, timers, index arithmetic and block transfers (43_keys_timers_mem) -/

/-- R160, R161, R162. -/
def Obligations.KeySkips : Prop :=
  ∀ (x : Nibble) (s : State),
    decodeWord (0xE#4 ++ x ++ 0x9E#8) = .ok (.skp x) ∧ decodeWord (0xE#4 ++ x ++ 0xA1#8) = .ok (.sknp x) ∧
    (15 < (s.getV x).toNat →
      exec (.skp x) s = .next (s.afterFault .outOfBounds (0xE#4 ++ x ++ 0x9E#8)) ∧
      exec (.sknp x) s = .next (s.afterFault .outOfBounds (0xE#4 ++ x ++ 0xA1#8))) ∧
    (∀ (k : Nat) (hk : k < 16), (s.getV x).toNat = k →
      exec (.skp x) s = .next { s with pc := if s.key[k] = true then s.pc + 2 else s.pc } ∧
      exec (.sknp x) s = .next { s with pc := if s.key[k] = true then s.pc else s.pc + 2 })

/-- R163. -/
def Obligations.ReadDelayTimer : Prop :=
  ∀ (x : Nibble) (s : State), decodeWord (0xF#4 ++ x ++ 0x07#8) = .ok (.ldVxDt x) ∧
    ∃ t, exec (.ldVxDt x) s = .next t ∧ t.getV x = s.dt ∧ (∀ r, r ≠ x → t.getV r = s.getV r) ∧ t = { s with v := t.v }

/-- R164. -/
def Obligations.WaitForKey : Prop :=
  ∀ (x : Nibble) (s : State), decodeWord (0xF#4 ++ x ++ 0x0A#8) = .ok (.ldVxK x) ∧
    (s.latch = none → exec (.ldVxK x) s = .next { s with pc := s.pc - 2 }) ∧
    (∀ k : KeyCode, s.latch = some k →
      ∃ t, exec (.ldVxK x) s = .next t ∧ (t.getV x).toNat = k.val ∧ (∀ r, r ≠ x → t.getV r = s.getV r) ∧
        t = { s with v := t.v, latch := none })

/-- R165, R166. -/
def Obligations.SetTimers : Prop :=
  ∀ (x : Nibble) (s : State),
    decodeWord (0xF#4 ++ x ++ 0x15#8) = .ok (.ldDtVx x) ∧ decodeWord (0xF#4 ++ x ++ 0x18#8) = .ok (.ldStVx x) ∧
    exec (.ldDtVx x) s = .next { s with dt := s.getV x } ∧ exec (.ldStVx x) s = .next { s with st := s.getV x }

/-- R167. -/
def Obligations.AddToIndex : Prop :=
  ∀ (x : Nibble) (s : State), decodeWord (0xF#4 ++ x ++ 0x1E#8) = .ok (.addIVx x) ∧
    ∃ t, exec (.addIVx x) s = .next t ∧ t.i.toNat = (s.i.toNat + (s.getV x).toNat) % 65536 ∧ t = { s with i := t.i }

/-- R168, for the parameter FONT_BASE (log entry 9 names its value). -/
def Obligations.IndexOfGlyph : Prop :=
  ∀ (x : Nibble) (s : State), decodeWord (0xF#4 ++ x ++ 0x29#8) = .ok (.ldFVx x) ∧
    ∃ t, exec (.ldFVx x) s = .next t ∧ t.i.toNat = fontBase + 5 * (s.getV x).toNat ∧ t = { s with i := t.i }

/-- R169, on canonical memory. -/
def Obligations.StoreDecimalDigits : Prop :=
  ∀ (x : Nibble) (s : State), decodeWord (0xF#4 ++ x ++ 0x33#8) = .ok (.ldBVx x) ∧
    (Memory.wf s.mem = true → s.i.toNat + 2 ≤ 0xFFF →
      ∃ t, exec (.ldBVx x) s = .next t ∧
        (t.readByte s.i.toNat).toNat = (s.getV x).toNat / 100 ∧
        (t.readByte (s.i.toNat + 1)).toNat = (s.getV x).toNat / 10 % 10 ∧
        (t.readByte (s.i.toNat + 2)).toNat = (s.getV x).toNat % 10 ∧
        (∀ a, a < s.i.toNat ∨ s.i.toNat + 2 < a → t.readByte a = s.readByte a) ∧ t = { s with mem := t.mem }) ∧
    (0xFFF < s.i.toNat + 2 → exec (.ldBVx x) s = .next (s.afterFault .outOfBounds (0xF#4 ++ x ++ 0x33#8)))

/-- R170, on canonical memory. -/
def Obligations.StoreRegisterBlock : Prop :=
  ∀ (x : Nibble) (s : State), decodeWord (0xF#4 ++ x ++ 0x55#8) = .ok (.ldMemVx x) ∧
    (Memory.wf s.mem = true → s.i.toNat + x.toNat ≤ 0xFFF →
      ∃ t, exec (.ldMemVx x) s = .next t ∧
        (∀ r : Nibble, r.toNat ≤ x.toNat → t.readByte (s.i.toNat + r.toNat) = s.getV r) ∧
        (∀ a, a < s.i.toNat ∨ s.i.toNat + x.toNat < a → t.readByte a = s.readByte a) ∧ t = { s with mem := t.mem }) ∧
    (0xFFF < s.i.toNat + x.toNat → exec (.ldMemVx x) s = .next (s.afterFault .outOfBounds (0xF#4 ++ x ++ 0x55#8)))

/-- R171. -/
def Obligations.LoadRegisterBlock : Prop :=
  ∀ (x : Nibble) (s : State), decodeWord (0xF#4 ++ x ++ 0x65#8) = .ok (.ldVxMem x) ∧
    (s.i.toNat + x.toNat ≤ 0xFFF →
      ∃ t, exec (.ldVxMem x) s = .next t ∧
        (∀ r : Nibble, r.toNat ≤ x.toNat → t.getV r = s.readByte (s.i.toNat + r.toNat)) ∧
        (∀ r : Nibble, x.toNat < r.toNat → t.getV r = s.getV r) ∧ t = { s with v := t.v }) ∧
    (0xFFF < s.i.toNat + x.toNat → exec (.ldVxMem x) s = .next (s.afterFault .outOfBounds (0xF#4 ++ x ++ 0x65#8)))

/-- R65, R253: after LD [I], Vx (x ≥ 1) the fetch at I reads the word V0 : V1 just stored. -/
def Obligations.StoreIsSeenByTheNextFetch : Prop :=
  ∀ (x : Nibble) (s t : State), Memory.wf s.mem = true → 1 ≤ x.toNat → s.i.toNat + x.toNat ≤ 0xFFF →
    exec (.ldMemVx x) s = .next t → t.pc = s.i → t.fetch = some (s.getV 0x0 ++ s.getV 0x1)

/-! ## What every instruction leaves unchanged (00_scope R13, 10_state R23, R24) -/

/-- R13, R23, R24: an instruction leaves every register unchanged that R24's column "writes" does not name for it. -/
def Obligations.RegistersNotNamedAreUnchanged : Prop :=
  ∀ (i : Instr) (s t : State) (r : Nibble), exec i s = .next t → mayWriteV i r = false → t.getV r = s.getV r

/-- R13, R55: every byte of memory outside the cells an instruction stores to (from I on, 3 for Fx33, x + 1 for Fx55, none for any other) reads
as before. -/
def Obligations.MemoryNotStoredToIsUnchanged : Prop :=
  ∀ (i : Instr) (s t : State), Memory.wf s.mem = true → exec i s = .next t →
    ∀ a, (a < s.i.toNat ∨ s.i.toNat + storeLength i ≤ a) → t.readByte a = s.readByte a

/-- R13, R29, R30, R33, R36, R37, R38, R40, R142: every other field changes only under the instructions that the spec names for it; no
instruction writes KEY, RUNNING or TRACE_ENABLED. -/
def Obligations.OtherStateNotNamedIsUnchanged : Prop :=
  ∀ (i : Instr) (s t : State), exec i s = .next t →
    (mayWriteI i = false → t.i = s.i) ∧ (mayWriteStack i = false → t.stack = s.stack ∧ t.sp = s.sp) ∧
    (mayWriteFb i = false → t.fb = s.fb) ∧ (mayWriteDt i = false → t.dt = s.dt) ∧ (mayWriteSt i = false → t.st = s.st) ∧
    (mayWriteLatch i = false → t.latch = s.latch) ∧ (mayDraw i = false → t.draws = s.draws) ∧
    t.key = s.key ∧ t.running = s.running ∧ t.traceEnabled = s.traceEnabled ∧ t.stamps = s.stamps ∧ t.schedule = s.schedule

/-! ## Faults (60_exceptions) -/

/-- R201 to R204, R211: every instruction answers a next state in every state, and it faults exactly when, and as, the table says. -/
def Obligations.InstructionsFaultExactlyAsListed : Prop :=
  ∀ (i : Instr) (s : State), s.fault = none →
    ∃ t, exec i s = .next t ∧ t.fault.map (fun f => f.kind) = faultOf s i

/-- R206: an instruction's fault is precise: the state is the one before it, PC at the instruction, but for FAULT and the report. -/
def Obligations.InstructionFaultsArePrecise : Prop :=
  ∀ (i : Instr) (s t : State), s.fault = none → exec i s = .next t → t.fault ≠ none →
    ∃ k, t = s.afterFault k (encode i)

/-- R206 at the level of a step: the state after a faulting CPU step is the state before it, except FAULT (and the report on the port
history, and the schedule's entry used up), and the record's address is PC. -/
def Obligations.FaultingStepChangesOnlyFault : Prop :=
  ∀ (s t : State) (f : FaultRecord), s.nextAgent = .cpuTick → s.fault = none → step s = .next t → t.fault = some f →
    f.addr = s.pc ∧
    t = { s with
      fault := some f
      history := s.history ++ [.faultReport f.kind f.addr f.opcode]
      schedule := s.schedule.tail }

/-- R206, R208: FAULT is sticky, and the program's state stands still, under every step but loadRom. -/
def Obligations.FaultIsSticky : Prop :=
  ∀ (s t : State) (f : FaultRecord), s.fault = some f → (∀ bytes, s.nextAgent ≠ .loadRom bytes) → step s = .next t →
    t.fault = some f ∧ t.v = s.v ∧ t.i = s.i ∧ t.pc = s.pc ∧ t.sp = s.sp ∧ t.stack = s.stack ∧ t.mem = s.mem ∧ t.fb = s.fb

/-! ## Timers and the host (60_exceptions) -/

/-- R226: one timer tick while RUNNING. -/
def Obligations.TimerTickCountsDown : Prop :=
  ∀ s : State, s.running = true →
    ∃ t, agentStep .timerTick s = .next t ∧ t.dt.toNat = s.dt.toNat - 1 ∧ t.st.toNat = s.st.toNat - 1 ∧
      t.history = s.history ++ (if s.st = 0 then [] else [.audioTrigger]) ∧
      t = { s with dt := t.dt, st := t.st, history := t.history }

/-- R226's "Timer decay" for every start and every number of ticks: n ticks in a row leave DT and ST each n lower, stopping at 0, and emit
min n ST audio triggers. -/
def Obligations.TimersDecay : Prop :=
  ∀ (n : Nat) (s : State), s.running = true →
    ∃ t, Host.Core.run { State := State, Fault := Fault, Refusal := Refusal, step := agentStep .timerTick, reset := s } n s = .next t ∧
      t.dt.toNat = s.dt.toNat - n ∧ t.st.toNat = s.st.toNat - n ∧
      t.history = s.history ++ List.replicate (min n s.st.toNat) .audioTrigger ∧
      t = { s with dt := t.dt, st := t.st, history := t.history }

/-- R205, R230, R240: loadRom resets every field; a ROM of at most 3584 bytes is copied to 0x200 and RUNNING set; a longer one is not copied
and faults with RomTooLarge. -/
def Obligations.LoadRomResetsAndLoads : Prop :=
  ∀ (bytes : List Byte) (s : State),
    ∃ t, agentStep (.loadRom bytes) s = .next t ∧
      ((∀ r, t.getV r = 0) ∧ t.i = 0 ∧ t.pc = 0x200 ∧ t.sp = 0 ∧ (∀ (k : Nat) (hk : k < 16), t.stack[k] = 0) ∧ t.dt = 0 ∧ t.st = 0 ∧
        (∀ (k : Nat) (hk : k < 16), t.key[k] = false) ∧ t.latch = none ∧ (∀ p, p < 2048 → fbPixel t.fb p = false) ∧
        t.traceEnabled = s.traceEnabled) ∧
      (bytes.length ≤ 3584 → t.running = true ∧ t.fault = none ∧ t.history = s.history ∧
        (∀ (k : Nat) (hk : k < bytes.length), t.readByte (0x200 + k) = bytes[k]) ∧
        (∀ a, a < 0x200 ∨ 0x200 + bytes.length ≤ a → t.readByte a = State.reset.readByte a)) ∧
      (3584 < bytes.length → t.running = false ∧ t.fault = some ⟨.romTooLarge, 0x200, 0⟩ ∧
        t.history = s.history ++ [.faultReport .romTooLarge 0x200 0] ∧ ∀ a, t.readByte a = State.reset.readByte a)

/-- R231, R232, R39. -/
def Obligations.HostControls : Prop :=
  ∀ s : State, agentStep .stop s = .next { s with running := false } ∧ agentStep .resume s = .next { s with running := true } ∧
    ∀ on, agentStep (.setTrace on) s = .next { s with traceEnabled := on }

/-- R233, R234: a key call sets or clears its key alone; setKey latches it; a code outside 0..15 is no step of the model. -/
def Obligations.HostKeyCalls : Prop :=
  ∀ s : State,
    (∀ (k : Nat) (hk : k < 16),
      (∃ t, agentStep (.setKey k) s = .next t ∧ t.key[k] = true ∧ (∀ (j : Nat) (hj : j < 16), j ≠ k → t.key[j] = s.key[j]) ∧
        t = { s with key := t.key, latch := some ⟨k, hk⟩ }) ∧
      (∃ t, agentStep (.clearKey k) s = .next t ∧ t.key[k] = false ∧ (∀ (j : Nat) (hj : j < 16), j ≠ k → t.key[j] = s.key[j]) ∧
        t = { s with key := t.key })) ∧
    (∀ k, 15 < k → agentStep (.setKey k) s = .refused (.keyCodeOutsideContract k) ∧
      agentStep (.clearKey k) s = .refused (.keyCodeOutsideContract k))

/-! ## The whole machine -/

/-- R37, R38, R213: KEY changes only by the host's key calls and loadRom, and a step without them only keeps the latch or empties it. -/
def Obligations.OnlyTheHostPressesKeys : Prop :=
  ∀ s t : State, step s = .next t → s.nextAgent = .cpuTick ∨ s.nextAgent = .timerTick →
    t.key = s.key ∧ (t.latch = s.latch ∨ t.latch = none) ∧ (s.nextAgent = .timerTick → t.latch = s.latch)

/-- R220: a step appends to the port history and reads nothing of it: from the same state with any other history it does the same. -/
def Obligations.HistoryIsAppendedAndNeverRead : Prop :=
  ∀ (s t : State) (h : List PortEvent), step s = .next t →
    ∃ new, t.history = s.history ++ new ∧ step { s with history := h } = .next { t with history := h ++ new }

/-- R142: only RND draws, and one value at each execution. -/
def Obligations.OnlyRndDraws : Prop :=
  ∀ s t : State, step s = .next t → t.draws ≠ s.draws →
    t.draws = s.draws + 1 ∧ s.nextAgent = .cpuTick ∧
      ∃ x nn, decodeWord (s.readByte s.pc.toNat ++ s.readByte (s.pc.toNat + 1)) = .ok (.rnd x nn)

/-- R110, R258: at its end the core goes on executing the self-jump, and stays at its end: the next state is the same one (this step taken
from the schedule), with R223's one trace line of the JP exactly when TRACE_ENABLED, and no other event. -/
def Obligations.EndOfProgramIsKept : Prop :=
  ∀ s : State, s.isAtEnd = true → s.running = true → s.nextAgent = .cpuTick →
    ∃ t, step s = .next t ∧ t.isAtEnd = true ∧
      t = ({ s with schedule := s.schedule.tail } : State).afterTrace "JP" s.pc
        (s.readByte s.pc.toNat ++ s.readByte (s.pc.toNat + 1))

/-- R228, R255: in every fair run, from every point on after which RUNNING stays true and no CPU tick changes DT, DT reaches 0. -/
def Obligations.DelayEndsInFairRuns : Prop :=
  ∀ (ev : Nat → AgentStep) (run : Nat → State) (start : Nat), FairRun ev run → (∀ n, start ≤ n → (run n).running = true) →
    (∀ n, start ≤ n → ev n = .cpuTick → (run (n + 1)).dt = (run n).dt) → ∃ n, start ≤ n ∧ (run n).dt = 0

/-- R242: the state after construction, field by field; FONT_BASE, FONT_DATA and TRACE_ENABLED are the parameters. -/
def Obligations.ResetLeavesTheseValues : Prop :=
  (∀ r, State.reset.getV r = 0) ∧ State.reset.i = 0 ∧ State.reset.pc = 0x200 ∧ State.reset.sp = 0 ∧
  (∀ (k : Nat) (hk : k < 16), State.reset.stack[k] = 0) ∧ State.reset.dt = 0 ∧ State.reset.st = 0 ∧
  (∀ (k : Nat) (hk : k < 16), State.reset.key[k] = false) ∧ State.reset.latch = none ∧
  (∀ p, p < 2048 → fbPixel State.reset.fb p = false) ∧ State.reset.fault = none ∧ State.reset.running = false ∧
  State.reset.traceEnabled = Config.traceAtConstruction ∧
  (∀ k, k < 80 → State.reset.readByte (fontBase + k) = fontData.getD k 0) ∧
  (∀ a, a < fontBase ∨ fontBase + 80 ≤ a → State.reset.readByte a = 0)

/-- The values the model gives the parameters of R6 and R35 and what the spec does not give at construction: the model's choices of log
entries 5, 8 and 9 (FONT_BASE and FONT_DATA at the spec's defaults, TRACE_ENABLED false, no event so far). -/
def Obligations.ChosenParametersAtReset : Prop :=
  fontBase = 0x050 ∧ State.reset.traceEnabled = false ∧ State.reset.history = [] ∧
  Memory.readBytes State.reset.mem 0x050 80 =
    [0xF0, 0x90, 0x90, 0x90, 0xF0, 0x20, 0x60, 0x20, 0x20, 0x70, 0xF0, 0x10, 0xF0, 0x80, 0xF0, 0xF0, 0x10, 0xF0, 0x10, 0xF0] ++
    [0x90, 0x90, 0xF0, 0x10, 0x10, 0xF0, 0x80, 0xF0, 0x10, 0xF0, 0xF0, 0x80, 0xF0, 0x90, 0xF0, 0xF0, 0x10, 0x20, 0x40, 0x40] ++
    [0xF0, 0x90, 0xF0, 0x90, 0xF0, 0xF0, 0x90, 0xF0, 0x10, 0xF0, 0xF0, 0x90, 0xF0, 0x90, 0x90, 0xE0, 0x90, 0xE0, 0x90, 0xE0] ++
    [0xF0, 0x80, 0x80, 0x80, 0xF0, 0xE0, 0x90, 0x90, 0x90, 0xE0, 0xF0, 0x80, 0xF0, 0x80, 0xF0, 0xF0, 0x80, 0xF0, 0x80, 0x80]

/-- The invariant holds after reset (R34, R41). -/
def Obligations.InvariantHoldsAtReset : Prop := State.reset.Inv

/-- Every step of every agent keeps the invariant, from every state that has it: memory stays in its canonical form (R53, R57), and a standing
fault stays precise and reported (R205 to R208). -/
def Obligations.EveryStepKeepsTheInvariant : Prop :=
  ∀ s t : State, s.Inv → step s = .next t → t.Inv
end

