-- ==== Sys2Proof/Laws/Memory.lean ====
section
/-! SUPPORT. Memory: reads after writes, and the canonical form that every operation keeps (20_memory R57). -/

namespace Sys2Proof.Machine

theorem Memory.read_nil (a : Nat) : Memory.read [] a = resetByte a := rfl

theorem Memory.read_cons (d : Nat) (x : Byte) (rest : Memory) (a : Nat) :
    Memory.read ((d, x) :: rest) a = if d = a then x else Memory.read rest a := rfl

/-! ## The canonical form -/

theorem Memory.wfFrom_mono (m : Memory) (lo lo' : Nat) (h : lo' ≤ lo) (hm : Memory.wfFrom lo m = true) :
    Memory.wfFrom lo' m = true := by
  cases m with
  | nil => rfl
  | cons e rest =>
    simp only [Memory.wfFrom, Bool.and_eq_true, decide_eq_true_eq] at hm ⊢
    exact ⟨⟨⟨Nat.le_trans h hm.1.1.1, hm.1.1.2⟩, hm.1.2⟩, hm.2⟩

/-- A cell below the listed ones reads as its reset contents. -/
theorem Memory.read_below (m : Memory) (lo a : Nat) (h : a < lo) (hm : Memory.wfFrom lo m = true) :
    Memory.read m a = resetByte a := by
  induction m generalizing lo with
  | nil => rfl
  | cons e rest ih =>
    obtain ⟨c, b⟩ := e
    simp only [Memory.wfFrom, Bool.and_eq_true, decide_eq_true_eq] at hm
    rw [Memory.read, if_neg (by omega)]
    exact ih (c + 1) (by omega) hm.2

theorem Memory.put_wfFrom (m : Memory) (lo a : Nat) (b : Byte) (hlo : lo ≤ a) (ha : a < Config.memSize)
    (hm : Memory.wfFrom lo m = true) : Memory.wfFrom lo (Memory.put m a b) = true := by
  induction m generalizing lo with
  | nil =>
    unfold Memory.put
    split
    · rfl
    · simp_all [Memory.wfFrom]
  | cons e rest ih =>
    obtain ⟨c, d⟩ := e
    simp only [Memory.wfFrom, Bool.and_eq_true, decide_eq_true_eq] at hm
    obtain ⟨⟨⟨h1, h2⟩, h3⟩, h4⟩ := hm
    unfold Memory.put
    split
    · next hca => simp only [Memory.wfFrom, h1, h2, h3, decide_true, Bool.true_and]; exact ih (c + 1) (by omega) h4
    · split
      · next hca =>
        subst hca
        split
        · exact Memory.wfFrom_mono rest (c + 1) lo (by omega) h4
        · next hb => simp [Memory.wfFrom, h1, h2, h4, hb]
      · split
        · simp [Memory.wfFrom, h1, h2, h3, h4]
        · next hb => simp [Memory.wfFrom, hlo, ha, hb, h2, h3, h4]; omega

/-- Memory keeps its canonical form at every byte written. -/
theorem Memory.write_wf (m : Memory) (a : Nat) (b : Byte) (hm : Memory.wf m = true) : Memory.wf (Memory.write m a b) = true := by
  unfold Memory.write
  split
  · next h => exact Memory.put_wfFrom m 0 a b (by omega) h hm
  · exact hm

/-- Memory keeps its canonical form at every run of bytes written. -/
theorem Memory.writeBytes_wf (m : Memory) (a : Nat) (bs : List Byte) (hm : Memory.wf m = true) :
    Memory.wf (Memory.writeBytes m a bs) = true := by
  induction bs generalizing m a with
  | nil => exact hm
  | cons b bs ih => exact ih _ _ (Memory.write_wf m a b hm)

/-- The state after reset has canonical memory. -/
theorem State.reset_mem_wf : Memory.wf State.reset.mem = true := rfl

/-! ## Reads after writes -/

theorem Memory.read_put (m : Memory) (lo a c : Nat) (b : Byte) (hm : Memory.wfFrom lo m = true) :
    Memory.read (Memory.put m a b) c = if c = a then b else Memory.read m c := by
  induction m generalizing lo with
  | nil =>
    unfold Memory.put
    split
    · next hb => split
                 · next hc => subst hc; exact hb.symm
                 · rfl
    · by_cases hc : c = a
      · rw [Memory.read_cons, if_pos hc.symm, if_pos hc]
      · rw [Memory.read_cons, if_neg (Ne.symm hc), if_neg hc, Memory.read_nil]
  | cons e rest ih =>
    obtain ⟨d, x⟩ := e
    simp only [Memory.wfFrom, Bool.and_eq_true, decide_eq_true_eq] at hm
    obtain ⟨-, h4⟩ := hm
    unfold Memory.put
    split
    · next hda =>
      simp only [Memory.read, ih (d + 1) h4]
      split <;> split <;> first | rfl | omega
    · split
      · next hda =>
        subst hda
        split
        · next hb =>
          by_cases hc : c = d
          · subst hc; rw [if_pos rfl, hb]; exact Memory.read_below rest (c + 1) c (by omega) h4
          · rw [if_neg hc, Memory.read, if_neg (Ne.symm hc)]
        · by_cases hc : c = d
          · rw [Memory.read_cons, if_pos hc.symm, if_pos hc]
          · rw [Memory.read_cons, if_neg (Ne.symm hc), if_neg hc, Memory.read_cons, if_neg (Ne.symm hc)]
      · split
        · next hb =>
          by_cases hc : c = a
          · subst hc
            rw [if_pos rfl, hb, Memory.read, if_neg (by omega)]
            exact Memory.read_below rest (d + 1) c (by omega) h4
          · rw [if_neg hc]
        · by_cases hc : c = a
          · rw [Memory.read_cons, if_pos hc.symm, if_pos hc]
          · rw [Memory.read_cons, if_neg (Ne.symm hc), if_neg hc]

/-- A read after a write of one existing cell (R57). -/
theorem Memory.read_write (m : Memory) (a c : Nat) (b : Byte) (hm : Memory.wf m = true) (ha : a < Config.memSize) :
    Memory.read (Memory.write m a b) c = if c = a then b else Memory.read m c := by
  rw [Memory.write, if_pos ha]; exact Memory.read_put m 0 a c b hm

/-- A read after a run of writes (R57): the byte written there, or what was there. -/
theorem Memory.read_writeBytes (m : Memory) (a c : Nat) (bs : List Byte) (hm : Memory.wf m = true)
    (ha : a + bs.length ≤ Config.memSize) :
    Memory.read (Memory.writeBytes m a bs) c =
      if h : a ≤ c ∧ c < a + bs.length then bs[c - a]'(by omega) else Memory.read m c := by
  induction bs generalizing m a with
  | nil => rw [dif_neg (by simp)]; rfl
  | cons b bs ih =>
    simp only [List.length_cons] at ha ⊢
    rw [Memory.writeBytes, ih (Memory.write m a b) (a + 1) (Memory.write_wf m a b hm) (by omega),
      Memory.read_write m a c b hm (by omega)]
    by_cases h1 : a + 1 ≤ c ∧ c < a + 1 + bs.length
    · rw [dif_pos h1, dif_pos (by omega)]
      have : c - a = (c - (a + 1)) + 1 := by omega
      simp [this]
    · rw [dif_neg h1]
      by_cases h2 : c = a
      · subst h2; simp
      · rw [if_neg h2, dif_neg (by omega)]

/-- A run of writes leaves every cell outside it as it was, whatever the run's place. -/
theorem Memory.read_writeBytes_outside (m : Memory) (a c : Nat) (bs : List Byte) (hm : Memory.wf m = true)
    (hc : c < a ∨ a + bs.length ≤ c) : Memory.read (Memory.writeBytes m a bs) c = Memory.read m c := by
  induction bs generalizing m a with
  | nil => rfl
  | cons b bs ih =>
    simp only [List.length_cons] at hc
    rw [Memory.writeBytes, ih (Memory.write m a b) (a + 1) (Memory.write_wf m a b hm) (by omega)]
    unfold Memory.write
    split
    · rw [Memory.read_put m 0 a c b hm, if_neg (by omega)]
    · rfl

/-- The k-th of a run of bytes read. -/
theorem Memory.readBytes_length (m : Memory) (a n : Nat) : (Memory.readBytes m a n).length = n := by
  induction n generalizing a with
  | zero => rfl
  | succ n ih => simp [Memory.readBytes, ih]

/-- The k-th of a run of bytes read is the byte at a + k. -/
theorem Memory.readBytes_getElem (m : Memory) (a n k : Nat) (h : k < (Memory.readBytes m a n).length) :
    (Memory.readBytes m a n)[k] = Memory.read m (a + k) := by
  induction n generalizing a k with
  | zero => simp [Memory.readBytes] at h
  | succ n ih =>
    cases k with
    | zero => rfl
    | succ k =>
      simp only [Memory.readBytes, List.getElem_cons_succ]
      rw [ih (a + 1) k (by simpa [Memory.readBytes] using h)]
      congr 1; omega

end Sys2Proof.Machine
end

