-- ==== Sys2Proof/Laws/State.lean ====
section
/-! SUPPORT. Beside State: one lemma per field per update, so that no proof unfolds a record update. -/

namespace Sys2Proof.Machine

variable (s : State)

/-! ### setV -/

@[simp] theorem State.setV_v (x : Nibble) (b : Byte) : (s.setV x b).v = s.v.set x.toNat b x.isLt := rfl
@[simp] theorem State.setV_i (x : Nibble) (b : Byte) : (s.setV x b).i = s.i := rfl
@[simp] theorem State.setV_pc (x : Nibble) (b : Byte) : (s.setV x b).pc = s.pc := rfl
@[simp] theorem State.setV_stack (x : Nibble) (b : Byte) : (s.setV x b).stack = s.stack := rfl
@[simp] theorem State.setV_sp (x : Nibble) (b : Byte) : (s.setV x b).sp = s.sp := rfl
@[simp] theorem State.setV_dt (x : Nibble) (b : Byte) : (s.setV x b).dt = s.dt := rfl
@[simp] theorem State.setV_st (x : Nibble) (b : Byte) : (s.setV x b).st = s.st := rfl
@[simp] theorem State.setV_mem (x : Nibble) (b : Byte) : (s.setV x b).mem = s.mem := rfl
@[simp] theorem State.setV_fb (x : Nibble) (b : Byte) : (s.setV x b).fb = s.fb := rfl
@[simp] theorem State.setV_key (x : Nibble) (b : Byte) : (s.setV x b).key = s.key := rfl
@[simp] theorem State.setV_latch (x : Nibble) (b : Byte) : (s.setV x b).latch = s.latch := rfl
@[simp] theorem State.setV_running (x : Nibble) (b : Byte) : (s.setV x b).running = s.running := rfl
@[simp] theorem State.setV_fault (x : Nibble) (b : Byte) : (s.setV x b).fault = s.fault := rfl
@[simp] theorem State.setV_traceEnabled (x : Nibble) (b : Byte) : (s.setV x b).traceEnabled = s.traceEnabled := rfl
@[simp] theorem State.setV_history (x : Nibble) (b : Byte) : (s.setV x b).history = s.history := rfl
@[simp] theorem State.setV_draws (x : Nibble) (b : Byte) : (s.setV x b).draws = s.draws := rfl
@[simp] theorem State.setV_stamps (x : Nibble) (b : Byte) : (s.setV x b).stamps = s.stamps := rfl
@[simp] theorem State.setV_schedule (x : Nibble) (b : Byte) : (s.setV x b).schedule = s.schedule := rfl

/-! ### setPc -/

@[simp] theorem State.setPc_v (w : Word) : (s.setPc w).v = s.v := rfl
@[simp] theorem State.setPc_i (w : Word) : (s.setPc w).i = s.i := rfl
@[simp] theorem State.setPc_pc (w : Word) : (s.setPc w).pc = w := rfl
@[simp] theorem State.setPc_stack (w : Word) : (s.setPc w).stack = s.stack := rfl
@[simp] theorem State.setPc_sp (w : Word) : (s.setPc w).sp = s.sp := rfl
@[simp] theorem State.setPc_dt (w : Word) : (s.setPc w).dt = s.dt := rfl
@[simp] theorem State.setPc_st (w : Word) : (s.setPc w).st = s.st := rfl
@[simp] theorem State.setPc_mem (w : Word) : (s.setPc w).mem = s.mem := rfl
@[simp] theorem State.setPc_fb (w : Word) : (s.setPc w).fb = s.fb := rfl
@[simp] theorem State.setPc_key (w : Word) : (s.setPc w).key = s.key := rfl
@[simp] theorem State.setPc_latch (w : Word) : (s.setPc w).latch = s.latch := rfl
@[simp] theorem State.setPc_running (w : Word) : (s.setPc w).running = s.running := rfl
@[simp] theorem State.setPc_fault (w : Word) : (s.setPc w).fault = s.fault := rfl
@[simp] theorem State.setPc_traceEnabled (w : Word) : (s.setPc w).traceEnabled = s.traceEnabled := rfl
@[simp] theorem State.setPc_history (w : Word) : (s.setPc w).history = s.history := rfl
@[simp] theorem State.setPc_draws (w : Word) : (s.setPc w).draws = s.draws := rfl
@[simp] theorem State.setPc_stamps (w : Word) : (s.setPc w).stamps = s.stamps := rfl
@[simp] theorem State.setPc_schedule (w : Word) : (s.setPc w).schedule = s.schedule := rfl

/-! ### setI -/

@[simp] theorem State.setI_v (w : Word) : (s.setI w).v = s.v := rfl
@[simp] theorem State.setI_i (w : Word) : (s.setI w).i = w := rfl
@[simp] theorem State.setI_pc (w : Word) : (s.setI w).pc = s.pc := rfl
@[simp] theorem State.setI_stack (w : Word) : (s.setI w).stack = s.stack := rfl
@[simp] theorem State.setI_sp (w : Word) : (s.setI w).sp = s.sp := rfl
@[simp] theorem State.setI_dt (w : Word) : (s.setI w).dt = s.dt := rfl
@[simp] theorem State.setI_st (w : Word) : (s.setI w).st = s.st := rfl
@[simp] theorem State.setI_mem (w : Word) : (s.setI w).mem = s.mem := rfl
@[simp] theorem State.setI_fb (w : Word) : (s.setI w).fb = s.fb := rfl
@[simp] theorem State.setI_key (w : Word) : (s.setI w).key = s.key := rfl
@[simp] theorem State.setI_latch (w : Word) : (s.setI w).latch = s.latch := rfl
@[simp] theorem State.setI_running (w : Word) : (s.setI w).running = s.running := rfl
@[simp] theorem State.setI_fault (w : Word) : (s.setI w).fault = s.fault := rfl
@[simp] theorem State.setI_traceEnabled (w : Word) : (s.setI w).traceEnabled = s.traceEnabled := rfl
@[simp] theorem State.setI_history (w : Word) : (s.setI w).history = s.history := rfl
@[simp] theorem State.setI_draws (w : Word) : (s.setI w).draws = s.draws := rfl
@[simp] theorem State.setI_stamps (w : Word) : (s.setI w).stamps = s.stamps := rfl
@[simp] theorem State.setI_schedule (w : Word) : (s.setI w).schedule = s.schedule := rfl

/-! ### setDt -/

@[simp] theorem State.setDt_v (b : Byte) : (s.setDt b).v = s.v := rfl
@[simp] theorem State.setDt_i (b : Byte) : (s.setDt b).i = s.i := rfl
@[simp] theorem State.setDt_pc (b : Byte) : (s.setDt b).pc = s.pc := rfl
@[simp] theorem State.setDt_stack (b : Byte) : (s.setDt b).stack = s.stack := rfl
@[simp] theorem State.setDt_sp (b : Byte) : (s.setDt b).sp = s.sp := rfl
@[simp] theorem State.setDt_dt (b : Byte) : (s.setDt b).dt = b := rfl
@[simp] theorem State.setDt_st (b : Byte) : (s.setDt b).st = s.st := rfl
@[simp] theorem State.setDt_mem (b : Byte) : (s.setDt b).mem = s.mem := rfl
@[simp] theorem State.setDt_fb (b : Byte) : (s.setDt b).fb = s.fb := rfl
@[simp] theorem State.setDt_key (b : Byte) : (s.setDt b).key = s.key := rfl
@[simp] theorem State.setDt_latch (b : Byte) : (s.setDt b).latch = s.latch := rfl
@[simp] theorem State.setDt_running (b : Byte) : (s.setDt b).running = s.running := rfl
@[simp] theorem State.setDt_fault (b : Byte) : (s.setDt b).fault = s.fault := rfl
@[simp] theorem State.setDt_traceEnabled (b : Byte) : (s.setDt b).traceEnabled = s.traceEnabled := rfl
@[simp] theorem State.setDt_history (b : Byte) : (s.setDt b).history = s.history := rfl
@[simp] theorem State.setDt_draws (b : Byte) : (s.setDt b).draws = s.draws := rfl
@[simp] theorem State.setDt_stamps (b : Byte) : (s.setDt b).stamps = s.stamps := rfl
@[simp] theorem State.setDt_schedule (b : Byte) : (s.setDt b).schedule = s.schedule := rfl

/-! ### setSt -/

@[simp] theorem State.setSt_v (b : Byte) : (s.setSt b).v = s.v := rfl
@[simp] theorem State.setSt_i (b : Byte) : (s.setSt b).i = s.i := rfl
@[simp] theorem State.setSt_pc (b : Byte) : (s.setSt b).pc = s.pc := rfl
@[simp] theorem State.setSt_stack (b : Byte) : (s.setSt b).stack = s.stack := rfl
@[simp] theorem State.setSt_sp (b : Byte) : (s.setSt b).sp = s.sp := rfl
@[simp] theorem State.setSt_dt (b : Byte) : (s.setSt b).dt = s.dt := rfl
@[simp] theorem State.setSt_st (b : Byte) : (s.setSt b).st = b := rfl
@[simp] theorem State.setSt_mem (b : Byte) : (s.setSt b).mem = s.mem := rfl
@[simp] theorem State.setSt_fb (b : Byte) : (s.setSt b).fb = s.fb := rfl
@[simp] theorem State.setSt_key (b : Byte) : (s.setSt b).key = s.key := rfl
@[simp] theorem State.setSt_latch (b : Byte) : (s.setSt b).latch = s.latch := rfl
@[simp] theorem State.setSt_running (b : Byte) : (s.setSt b).running = s.running := rfl
@[simp] theorem State.setSt_fault (b : Byte) : (s.setSt b).fault = s.fault := rfl
@[simp] theorem State.setSt_traceEnabled (b : Byte) : (s.setSt b).traceEnabled = s.traceEnabled := rfl
@[simp] theorem State.setSt_history (b : Byte) : (s.setSt b).history = s.history := rfl
@[simp] theorem State.setSt_draws (b : Byte) : (s.setSt b).draws = s.draws := rfl
@[simp] theorem State.setSt_stamps (b : Byte) : (s.setSt b).stamps = s.stamps := rfl
@[simp] theorem State.setSt_schedule (b : Byte) : (s.setSt b).schedule = s.schedule := rfl

/-! ### setFb -/

@[simp] theorem State.setFb_v (f : Screen) : (s.setFb f).v = s.v := rfl
@[simp] theorem State.setFb_i (f : Screen) : (s.setFb f).i = s.i := rfl
@[simp] theorem State.setFb_pc (f : Screen) : (s.setFb f).pc = s.pc := rfl
@[simp] theorem State.setFb_stack (f : Screen) : (s.setFb f).stack = s.stack := rfl
@[simp] theorem State.setFb_sp (f : Screen) : (s.setFb f).sp = s.sp := rfl
@[simp] theorem State.setFb_dt (f : Screen) : (s.setFb f).dt = s.dt := rfl
@[simp] theorem State.setFb_st (f : Screen) : (s.setFb f).st = s.st := rfl
@[simp] theorem State.setFb_mem (f : Screen) : (s.setFb f).mem = s.mem := rfl
@[simp] theorem State.setFb_fb (f : Screen) : (s.setFb f).fb = f := rfl
@[simp] theorem State.setFb_key (f : Screen) : (s.setFb f).key = s.key := rfl
@[simp] theorem State.setFb_latch (f : Screen) : (s.setFb f).latch = s.latch := rfl
@[simp] theorem State.setFb_running (f : Screen) : (s.setFb f).running = s.running := rfl
@[simp] theorem State.setFb_fault (f : Screen) : (s.setFb f).fault = s.fault := rfl
@[simp] theorem State.setFb_traceEnabled (f : Screen) : (s.setFb f).traceEnabled = s.traceEnabled := rfl
@[simp] theorem State.setFb_history (f : Screen) : (s.setFb f).history = s.history := rfl
@[simp] theorem State.setFb_draws (f : Screen) : (s.setFb f).draws = s.draws := rfl
@[simp] theorem State.setFb_stamps (f : Screen) : (s.setFb f).stamps = s.stamps := rfl
@[simp] theorem State.setFb_schedule (f : Screen) : (s.setFb f).schedule = s.schedule := rfl

/-! ### setLatch -/

@[simp] theorem State.setLatch_v (k : Option KeyCode) : (s.setLatch k).v = s.v := rfl
@[simp] theorem State.setLatch_i (k : Option KeyCode) : (s.setLatch k).i = s.i := rfl
@[simp] theorem State.setLatch_pc (k : Option KeyCode) : (s.setLatch k).pc = s.pc := rfl
@[simp] theorem State.setLatch_stack (k : Option KeyCode) : (s.setLatch k).stack = s.stack := rfl
@[simp] theorem State.setLatch_sp (k : Option KeyCode) : (s.setLatch k).sp = s.sp := rfl
@[simp] theorem State.setLatch_dt (k : Option KeyCode) : (s.setLatch k).dt = s.dt := rfl
@[simp] theorem State.setLatch_st (k : Option KeyCode) : (s.setLatch k).st = s.st := rfl
@[simp] theorem State.setLatch_mem (k : Option KeyCode) : (s.setLatch k).mem = s.mem := rfl
@[simp] theorem State.setLatch_fb (k : Option KeyCode) : (s.setLatch k).fb = s.fb := rfl
@[simp] theorem State.setLatch_key (k : Option KeyCode) : (s.setLatch k).key = s.key := rfl
@[simp] theorem State.setLatch_latch (k : Option KeyCode) : (s.setLatch k).latch = k := rfl
@[simp] theorem State.setLatch_running (k : Option KeyCode) : (s.setLatch k).running = s.running := rfl
@[simp] theorem State.setLatch_fault (k : Option KeyCode) : (s.setLatch k).fault = s.fault := rfl
@[simp] theorem State.setLatch_traceEnabled (k : Option KeyCode) : (s.setLatch k).traceEnabled = s.traceEnabled := rfl
@[simp] theorem State.setLatch_history (k : Option KeyCode) : (s.setLatch k).history = s.history := rfl
@[simp] theorem State.setLatch_draws (k : Option KeyCode) : (s.setLatch k).draws = s.draws := rfl
@[simp] theorem State.setLatch_stamps (k : Option KeyCode) : (s.setLatch k).stamps = s.stamps := rfl
@[simp] theorem State.setLatch_schedule (k : Option KeyCode) : (s.setLatch k).schedule = s.schedule := rfl

/-! ### setKeyState -/

@[simp] theorem State.setKeyState_v (k : KeyCode) (b : Bool) : (s.setKeyState k b).v = s.v := rfl
@[simp] theorem State.setKeyState_i (k : KeyCode) (b : Bool) : (s.setKeyState k b).i = s.i := rfl
@[simp] theorem State.setKeyState_pc (k : KeyCode) (b : Bool) : (s.setKeyState k b).pc = s.pc := rfl
@[simp] theorem State.setKeyState_stack (k : KeyCode) (b : Bool) : (s.setKeyState k b).stack = s.stack := rfl
@[simp] theorem State.setKeyState_sp (k : KeyCode) (b : Bool) : (s.setKeyState k b).sp = s.sp := rfl
@[simp] theorem State.setKeyState_dt (k : KeyCode) (b : Bool) : (s.setKeyState k b).dt = s.dt := rfl
@[simp] theorem State.setKeyState_st (k : KeyCode) (b : Bool) : (s.setKeyState k b).st = s.st := rfl
@[simp] theorem State.setKeyState_mem (k : KeyCode) (b : Bool) : (s.setKeyState k b).mem = s.mem := rfl
@[simp] theorem State.setKeyState_fb (k : KeyCode) (b : Bool) : (s.setKeyState k b).fb = s.fb := rfl
@[simp] theorem State.setKeyState_key (k : KeyCode) (b : Bool) : (s.setKeyState k b).key = s.key.set k.val b k.isLt := rfl
@[simp] theorem State.setKeyState_latch (k : KeyCode) (b : Bool) : (s.setKeyState k b).latch = s.latch := rfl
@[simp] theorem State.setKeyState_running (k : KeyCode) (b : Bool) : (s.setKeyState k b).running = s.running := rfl
@[simp] theorem State.setKeyState_fault (k : KeyCode) (b : Bool) : (s.setKeyState k b).fault = s.fault := rfl
@[simp] theorem State.setKeyState_traceEnabled (k : KeyCode) (b : Bool) : (s.setKeyState k b).traceEnabled = s.traceEnabled := rfl
@[simp] theorem State.setKeyState_history (k : KeyCode) (b : Bool) : (s.setKeyState k b).history = s.history := rfl
@[simp] theorem State.setKeyState_draws (k : KeyCode) (b : Bool) : (s.setKeyState k b).draws = s.draws := rfl
@[simp] theorem State.setKeyState_stamps (k : KeyCode) (b : Bool) : (s.setKeyState k b).stamps = s.stamps := rfl
@[simp] theorem State.setKeyState_schedule (k : KeyCode) (b : Bool) : (s.setKeyState k b).schedule = s.schedule := rfl

/-! ### setRunning -/

@[simp] theorem State.setRunning_v (b : Bool) : (s.setRunning b).v = s.v := rfl
@[simp] theorem State.setRunning_i (b : Bool) : (s.setRunning b).i = s.i := rfl
@[simp] theorem State.setRunning_pc (b : Bool) : (s.setRunning b).pc = s.pc := rfl
@[simp] theorem State.setRunning_stack (b : Bool) : (s.setRunning b).stack = s.stack := rfl
@[simp] theorem State.setRunning_sp (b : Bool) : (s.setRunning b).sp = s.sp := rfl
@[simp] theorem State.setRunning_dt (b : Bool) : (s.setRunning b).dt = s.dt := rfl
@[simp] theorem State.setRunning_st (b : Bool) : (s.setRunning b).st = s.st := rfl
@[simp] theorem State.setRunning_mem (b : Bool) : (s.setRunning b).mem = s.mem := rfl
@[simp] theorem State.setRunning_fb (b : Bool) : (s.setRunning b).fb = s.fb := rfl
@[simp] theorem State.setRunning_key (b : Bool) : (s.setRunning b).key = s.key := rfl
@[simp] theorem State.setRunning_latch (b : Bool) : (s.setRunning b).latch = s.latch := rfl
@[simp] theorem State.setRunning_running (b : Bool) : (s.setRunning b).running = b := rfl
@[simp] theorem State.setRunning_fault (b : Bool) : (s.setRunning b).fault = s.fault := rfl
@[simp] theorem State.setRunning_traceEnabled (b : Bool) : (s.setRunning b).traceEnabled = s.traceEnabled := rfl
@[simp] theorem State.setRunning_history (b : Bool) : (s.setRunning b).history = s.history := rfl
@[simp] theorem State.setRunning_draws (b : Bool) : (s.setRunning b).draws = s.draws := rfl
@[simp] theorem State.setRunning_stamps (b : Bool) : (s.setRunning b).stamps = s.stamps := rfl
@[simp] theorem State.setRunning_schedule (b : Bool) : (s.setRunning b).schedule = s.schedule := rfl

/-! ### storeBytes -/

@[simp] theorem State.storeBytes_v (a : Nat) (bs : List Byte) : (s.storeBytes a bs).v = s.v := rfl
@[simp] theorem State.storeBytes_i (a : Nat) (bs : List Byte) : (s.storeBytes a bs).i = s.i := rfl
@[simp] theorem State.storeBytes_pc (a : Nat) (bs : List Byte) : (s.storeBytes a bs).pc = s.pc := rfl
@[simp] theorem State.storeBytes_stack (a : Nat) (bs : List Byte) : (s.storeBytes a bs).stack = s.stack := rfl
@[simp] theorem State.storeBytes_sp (a : Nat) (bs : List Byte) : (s.storeBytes a bs).sp = s.sp := rfl
@[simp] theorem State.storeBytes_dt (a : Nat) (bs : List Byte) : (s.storeBytes a bs).dt = s.dt := rfl
@[simp] theorem State.storeBytes_st (a : Nat) (bs : List Byte) : (s.storeBytes a bs).st = s.st := rfl
@[simp] theorem State.storeBytes_mem (a : Nat) (bs : List Byte) : (s.storeBytes a bs).mem = Memory.writeBytes s.mem a bs := rfl
@[simp] theorem State.storeBytes_fb (a : Nat) (bs : List Byte) : (s.storeBytes a bs).fb = s.fb := rfl
@[simp] theorem State.storeBytes_key (a : Nat) (bs : List Byte) : (s.storeBytes a bs).key = s.key := rfl
@[simp] theorem State.storeBytes_latch (a : Nat) (bs : List Byte) : (s.storeBytes a bs).latch = s.latch := rfl
@[simp] theorem State.storeBytes_running (a : Nat) (bs : List Byte) : (s.storeBytes a bs).running = s.running := rfl
@[simp] theorem State.storeBytes_fault (a : Nat) (bs : List Byte) : (s.storeBytes a bs).fault = s.fault := rfl
@[simp] theorem State.storeBytes_traceEnabled (a : Nat) (bs : List Byte) : (s.storeBytes a bs).traceEnabled = s.traceEnabled := rfl
@[simp] theorem State.storeBytes_history (a : Nat) (bs : List Byte) : (s.storeBytes a bs).history = s.history := rfl
@[simp] theorem State.storeBytes_draws (a : Nat) (bs : List Byte) : (s.storeBytes a bs).draws = s.draws := rfl
@[simp] theorem State.storeBytes_stamps (a : Nat) (bs : List Byte) : (s.storeBytes a bs).stamps = s.stamps := rfl
@[simp] theorem State.storeBytes_schedule (a : Nat) (bs : List Byte) : (s.storeBytes a bs).schedule = s.schedule := rfl

/-! ### emit -/

@[simp] theorem State.emit_v (e : PortEvent) : (s.emit e).v = s.v := rfl
@[simp] theorem State.emit_i (e : PortEvent) : (s.emit e).i = s.i := rfl
@[simp] theorem State.emit_pc (e : PortEvent) : (s.emit e).pc = s.pc := rfl
@[simp] theorem State.emit_stack (e : PortEvent) : (s.emit e).stack = s.stack := rfl
@[simp] theorem State.emit_sp (e : PortEvent) : (s.emit e).sp = s.sp := rfl
@[simp] theorem State.emit_dt (e : PortEvent) : (s.emit e).dt = s.dt := rfl
@[simp] theorem State.emit_st (e : PortEvent) : (s.emit e).st = s.st := rfl
@[simp] theorem State.emit_mem (e : PortEvent) : (s.emit e).mem = s.mem := rfl
@[simp] theorem State.emit_fb (e : PortEvent) : (s.emit e).fb = s.fb := rfl
@[simp] theorem State.emit_key (e : PortEvent) : (s.emit e).key = s.key := rfl
@[simp] theorem State.emit_latch (e : PortEvent) : (s.emit e).latch = s.latch := rfl
@[simp] theorem State.emit_running (e : PortEvent) : (s.emit e).running = s.running := rfl
@[simp] theorem State.emit_fault (e : PortEvent) : (s.emit e).fault = s.fault := rfl
@[simp] theorem State.emit_traceEnabled (e : PortEvent) : (s.emit e).traceEnabled = s.traceEnabled := rfl
@[simp] theorem State.emit_history (e : PortEvent) : (s.emit e).history = s.history ++ [e] := rfl
@[simp] theorem State.emit_draws (e : PortEvent) : (s.emit e).draws = s.draws := rfl
@[simp] theorem State.emit_stamps (e : PortEvent) : (s.emit e).stamps = s.stamps := rfl
@[simp] theorem State.emit_schedule (e : PortEvent) : (s.emit e).schedule = s.schedule := rfl

/-! ### showScreen -/

@[simp] theorem State.showScreen_v (f : Screen) : (s.showScreen f).v = s.v := rfl
@[simp] theorem State.showScreen_i (f : Screen) : (s.showScreen f).i = s.i := rfl
@[simp] theorem State.showScreen_pc (f : Screen) : (s.showScreen f).pc = s.pc := rfl
@[simp] theorem State.showScreen_stack (f : Screen) : (s.showScreen f).stack = s.stack := rfl
@[simp] theorem State.showScreen_sp (f : Screen) : (s.showScreen f).sp = s.sp := rfl
@[simp] theorem State.showScreen_dt (f : Screen) : (s.showScreen f).dt = s.dt := rfl
@[simp] theorem State.showScreen_st (f : Screen) : (s.showScreen f).st = s.st := rfl
@[simp] theorem State.showScreen_mem (f : Screen) : (s.showScreen f).mem = s.mem := rfl
@[simp] theorem State.showScreen_fb (f : Screen) : (s.showScreen f).fb = f := rfl
@[simp] theorem State.showScreen_key (f : Screen) : (s.showScreen f).key = s.key := rfl
@[simp] theorem State.showScreen_latch (f : Screen) : (s.showScreen f).latch = s.latch := rfl
@[simp] theorem State.showScreen_running (f : Screen) : (s.showScreen f).running = s.running := rfl
@[simp] theorem State.showScreen_fault (f : Screen) : (s.showScreen f).fault = s.fault := rfl
@[simp] theorem State.showScreen_traceEnabled (f : Screen) : (s.showScreen f).traceEnabled = s.traceEnabled := rfl
@[simp] theorem State.showScreen_history (f : Screen) : (s.showScreen f).history = s.history ++ [.framebufferUpdate f] := rfl
@[simp] theorem State.showScreen_draws (f : Screen) : (s.showScreen f).draws = s.draws := rfl
@[simp] theorem State.showScreen_stamps (f : Screen) : (s.showScreen f).stamps = s.stamps := rfl
@[simp] theorem State.showScreen_schedule (f : Screen) : (s.showScreen f).schedule = s.schedule := rfl

/-! ### takeFault -/

@[simp] theorem State.takeFault_v (k : FaultKind) (a op : Word) : (s.takeFault k a op).v = s.v := rfl
@[simp] theorem State.takeFault_i (k : FaultKind) (a op : Word) : (s.takeFault k a op).i = s.i := rfl
@[simp] theorem State.takeFault_pc (k : FaultKind) (a op : Word) : (s.takeFault k a op).pc = a := rfl
@[simp] theorem State.takeFault_stack (k : FaultKind) (a op : Word) : (s.takeFault k a op).stack = s.stack := rfl
@[simp] theorem State.takeFault_sp (k : FaultKind) (a op : Word) : (s.takeFault k a op).sp = s.sp := rfl
@[simp] theorem State.takeFault_dt (k : FaultKind) (a op : Word) : (s.takeFault k a op).dt = s.dt := rfl
@[simp] theorem State.takeFault_st (k : FaultKind) (a op : Word) : (s.takeFault k a op).st = s.st := rfl
@[simp] theorem State.takeFault_mem (k : FaultKind) (a op : Word) : (s.takeFault k a op).mem = s.mem := rfl
@[simp] theorem State.takeFault_fb (k : FaultKind) (a op : Word) : (s.takeFault k a op).fb = s.fb := rfl
@[simp] theorem State.takeFault_key (k : FaultKind) (a op : Word) : (s.takeFault k a op).key = s.key := rfl
@[simp] theorem State.takeFault_latch (k : FaultKind) (a op : Word) : (s.takeFault k a op).latch = s.latch := rfl
@[simp] theorem State.takeFault_running (k : FaultKind) (a op : Word) : (s.takeFault k a op).running = s.running := rfl
@[simp] theorem State.takeFault_fault (k : FaultKind) (a op : Word) : (s.takeFault k a op).fault = some ⟨k, a, op⟩ := rfl
@[simp] theorem State.takeFault_traceEnabled (k : FaultKind) (a op : Word) : (s.takeFault k a op).traceEnabled = s.traceEnabled := rfl
@[simp] theorem State.takeFault_history (k : FaultKind) (a op : Word) : (s.takeFault k a op).history = s.history ++ [.faultReport k a op] := rfl
@[simp] theorem State.takeFault_draws (k : FaultKind) (a op : Word) : (s.takeFault k a op).draws = s.draws := rfl
@[simp] theorem State.takeFault_stamps (k : FaultKind) (a op : Word) : (s.takeFault k a op).stamps = s.stamps := rfl
@[simp] theorem State.takeFault_schedule (k : FaultKind) (a op : Word) : (s.takeFault k a op).schedule = s.schedule := rfl

/-! ### faultAt -/

@[simp] theorem State.faultAt_v (k : FaultKind) (ins : Instr) : (s.faultAt k ins).v = s.v := rfl
@[simp] theorem State.faultAt_i (k : FaultKind) (ins : Instr) : (s.faultAt k ins).i = s.i := rfl
@[simp] theorem State.faultAt_pc (k : FaultKind) (ins : Instr) : (s.faultAt k ins).pc = s.pc - 2 := rfl
@[simp] theorem State.faultAt_stack (k : FaultKind) (ins : Instr) : (s.faultAt k ins).stack = s.stack := rfl
@[simp] theorem State.faultAt_sp (k : FaultKind) (ins : Instr) : (s.faultAt k ins).sp = s.sp := rfl
@[simp] theorem State.faultAt_dt (k : FaultKind) (ins : Instr) : (s.faultAt k ins).dt = s.dt := rfl
@[simp] theorem State.faultAt_st (k : FaultKind) (ins : Instr) : (s.faultAt k ins).st = s.st := rfl
@[simp] theorem State.faultAt_mem (k : FaultKind) (ins : Instr) : (s.faultAt k ins).mem = s.mem := rfl
@[simp] theorem State.faultAt_fb (k : FaultKind) (ins : Instr) : (s.faultAt k ins).fb = s.fb := rfl
@[simp] theorem State.faultAt_key (k : FaultKind) (ins : Instr) : (s.faultAt k ins).key = s.key := rfl
@[simp] theorem State.faultAt_latch (k : FaultKind) (ins : Instr) : (s.faultAt k ins).latch = s.latch := rfl
@[simp] theorem State.faultAt_running (k : FaultKind) (ins : Instr) : (s.faultAt k ins).running = s.running := rfl
@[simp] theorem State.faultAt_fault (k : FaultKind) (ins : Instr) : (s.faultAt k ins).fault = some ⟨k, s.pc - 2, encode ins⟩ := rfl
@[simp] theorem State.faultAt_traceEnabled (k : FaultKind) (ins : Instr) : (s.faultAt k ins).traceEnabled = s.traceEnabled := rfl
@[simp] theorem State.faultAt_history (k : FaultKind) (ins : Instr) : (s.faultAt k ins).history = s.history ++ [.faultReport k (s.pc - 2) (encode ins)] := rfl
@[simp] theorem State.faultAt_draws (k : FaultKind) (ins : Instr) : (s.faultAt k ins).draws = s.draws := rfl
@[simp] theorem State.faultAt_stamps (k : FaultKind) (ins : Instr) : (s.faultAt k ins).stamps = s.stamps := rfl
@[simp] theorem State.faultAt_schedule (k : FaultKind) (ins : Instr) : (s.faultAt k ins).schedule = s.schedule := rfl

/-! ### setFlagAndResult -/

@[simp] theorem State.setFlagAndResult_v (x : Nibble) (fl b : Byte) : (s.setFlagAndResult x fl b).v = (s.v.set 15 fl (by decide)).set x.toNat b x.isLt := rfl
@[simp] theorem State.setFlagAndResult_i (x : Nibble) (fl b : Byte) : (s.setFlagAndResult x fl b).i = s.i := rfl
@[simp] theorem State.setFlagAndResult_pc (x : Nibble) (fl b : Byte) : (s.setFlagAndResult x fl b).pc = s.pc := rfl
@[simp] theorem State.setFlagAndResult_stack (x : Nibble) (fl b : Byte) : (s.setFlagAndResult x fl b).stack = s.stack := rfl
@[simp] theorem State.setFlagAndResult_sp (x : Nibble) (fl b : Byte) : (s.setFlagAndResult x fl b).sp = s.sp := rfl
@[simp] theorem State.setFlagAndResult_dt (x : Nibble) (fl b : Byte) : (s.setFlagAndResult x fl b).dt = s.dt := rfl
@[simp] theorem State.setFlagAndResult_st (x : Nibble) (fl b : Byte) : (s.setFlagAndResult x fl b).st = s.st := rfl
@[simp] theorem State.setFlagAndResult_mem (x : Nibble) (fl b : Byte) : (s.setFlagAndResult x fl b).mem = s.mem := rfl
@[simp] theorem State.setFlagAndResult_fb (x : Nibble) (fl b : Byte) : (s.setFlagAndResult x fl b).fb = s.fb := rfl
@[simp] theorem State.setFlagAndResult_key (x : Nibble) (fl b : Byte) : (s.setFlagAndResult x fl b).key = s.key := rfl
@[simp] theorem State.setFlagAndResult_latch (x : Nibble) (fl b : Byte) : (s.setFlagAndResult x fl b).latch = s.latch := rfl
@[simp] theorem State.setFlagAndResult_running (x : Nibble) (fl b : Byte) : (s.setFlagAndResult x fl b).running = s.running := rfl
@[simp] theorem State.setFlagAndResult_fault (x : Nibble) (fl b : Byte) : (s.setFlagAndResult x fl b).fault = s.fault := rfl
@[simp] theorem State.setFlagAndResult_traceEnabled (x : Nibble) (fl b : Byte) : (s.setFlagAndResult x fl b).traceEnabled = s.traceEnabled := rfl
@[simp] theorem State.setFlagAndResult_history (x : Nibble) (fl b : Byte) : (s.setFlagAndResult x fl b).history = s.history := rfl
@[simp] theorem State.setFlagAndResult_draws (x : Nibble) (fl b : Byte) : (s.setFlagAndResult x fl b).draws = s.draws := rfl
@[simp] theorem State.setFlagAndResult_stamps (x : Nibble) (fl b : Byte) : (s.setFlagAndResult x fl b).stamps = s.stamps := rfl
@[simp] theorem State.setFlagAndResult_schedule (x : Nibble) (fl b : Byte) : (s.setFlagAndResult x fl b).schedule = s.schedule := rfl

/-! ### tickTimers -/

@[simp] theorem State.tickTimers_v : s.tickTimers.v = s.v := rfl
@[simp] theorem State.tickTimers_i : s.tickTimers.i = s.i := rfl
@[simp] theorem State.tickTimers_pc : s.tickTimers.pc = s.pc := rfl
@[simp] theorem State.tickTimers_stack : s.tickTimers.stack = s.stack := rfl
@[simp] theorem State.tickTimers_sp : s.tickTimers.sp = s.sp := rfl
@[simp] theorem State.tickTimers_dt : s.tickTimers.dt = countDown s.dt := rfl
@[simp] theorem State.tickTimers_st : s.tickTimers.st = countDown s.st := rfl
@[simp] theorem State.tickTimers_mem : s.tickTimers.mem = s.mem := rfl
@[simp] theorem State.tickTimers_fb : s.tickTimers.fb = s.fb := rfl
@[simp] theorem State.tickTimers_key : s.tickTimers.key = s.key := rfl
@[simp] theorem State.tickTimers_latch : s.tickTimers.latch = s.latch := rfl
@[simp] theorem State.tickTimers_running : s.tickTimers.running = s.running := rfl
@[simp] theorem State.tickTimers_fault : s.tickTimers.fault = s.fault := rfl
@[simp] theorem State.tickTimers_traceEnabled : s.tickTimers.traceEnabled = s.traceEnabled := rfl
@[simp] theorem State.tickTimers_history : s.tickTimers.history = if s.st = 0 then s.history else s.history ++ [.audioTrigger] := rfl
@[simp] theorem State.tickTimers_draws : s.tickTimers.draws = s.draws := rfl
@[simp] theorem State.tickTimers_stamps : s.tickTimers.stamps = s.stamps := rfl
@[simp] theorem State.tickTimers_schedule : s.tickTimers.schedule = s.schedule := rfl

/-! ### dequeue -/

@[simp] theorem State.dequeue_v : s.dequeue.v = s.v := rfl
@[simp] theorem State.dequeue_i : s.dequeue.i = s.i := rfl
@[simp] theorem State.dequeue_pc : s.dequeue.pc = s.pc := rfl
@[simp] theorem State.dequeue_stack : s.dequeue.stack = s.stack := rfl
@[simp] theorem State.dequeue_sp : s.dequeue.sp = s.sp := rfl
@[simp] theorem State.dequeue_dt : s.dequeue.dt = s.dt := rfl
@[simp] theorem State.dequeue_st : s.dequeue.st = s.st := rfl
@[simp] theorem State.dequeue_mem : s.dequeue.mem = s.mem := rfl
@[simp] theorem State.dequeue_fb : s.dequeue.fb = s.fb := rfl
@[simp] theorem State.dequeue_key : s.dequeue.key = s.key := rfl
@[simp] theorem State.dequeue_latch : s.dequeue.latch = s.latch := rfl
@[simp] theorem State.dequeue_running : s.dequeue.running = s.running := rfl
@[simp] theorem State.dequeue_fault : s.dequeue.fault = s.fault := rfl
@[simp] theorem State.dequeue_traceEnabled : s.dequeue.traceEnabled = s.traceEnabled := rfl
@[simp] theorem State.dequeue_history : s.dequeue.history = s.history := rfl
@[simp] theorem State.dequeue_draws : s.dequeue.draws = s.draws := rfl
@[simp] theorem State.dequeue_stamps : s.dequeue.stamps = s.stamps := rfl
@[simp] theorem State.dequeue_schedule : s.dequeue.schedule = s.schedule.tail := rfl

/-! ### resetFields -/

@[simp] theorem State.resetFields_v : s.resetFields.v = State.reset.v := rfl
@[simp] theorem State.resetFields_i : s.resetFields.i = State.reset.i := rfl
@[simp] theorem State.resetFields_pc : s.resetFields.pc = State.reset.pc := rfl
@[simp] theorem State.resetFields_stack : s.resetFields.stack = State.reset.stack := rfl
@[simp] theorem State.resetFields_sp : s.resetFields.sp = State.reset.sp := rfl
@[simp] theorem State.resetFields_dt : s.resetFields.dt = State.reset.dt := rfl
@[simp] theorem State.resetFields_st : s.resetFields.st = State.reset.st := rfl
@[simp] theorem State.resetFields_mem : s.resetFields.mem = State.reset.mem := rfl
@[simp] theorem State.resetFields_fb : s.resetFields.fb = State.reset.fb := rfl
@[simp] theorem State.resetFields_key : s.resetFields.key = State.reset.key := rfl
@[simp] theorem State.resetFields_latch : s.resetFields.latch = State.reset.latch := rfl
@[simp] theorem State.resetFields_running : s.resetFields.running = s.running := rfl
@[simp] theorem State.resetFields_fault : s.resetFields.fault = State.reset.fault := rfl
@[simp] theorem State.resetFields_traceEnabled : s.resetFields.traceEnabled = s.traceEnabled := rfl
@[simp] theorem State.resetFields_history : s.resetFields.history = s.history := rfl
@[simp] theorem State.resetFields_draws : s.resetFields.draws = s.draws := rfl
@[simp] theorem State.resetFields_stamps : s.resetFields.stamps = s.stamps := rfl
@[simp] theorem State.resetFields_schedule : s.resetFields.schedule = s.schedule := rfl

/-! ### the conditional updates: skipIf, traced, tracedUnlessFault -/

@[simp] theorem State.skipIf_pc (c : Bool) : (s.skipIf c).pc = if c then s.pc + 2 else s.pc := by cases c <;> rfl
@[simp] theorem State.skipIf_v (c : Bool) : (s.skipIf c).v = s.v := by cases c <;> rfl
@[simp] theorem State.skipIf_i (c : Bool) : (s.skipIf c).i = s.i := by cases c <;> rfl
@[simp] theorem State.skipIf_stack (c : Bool) : (s.skipIf c).stack = s.stack := by cases c <;> rfl
@[simp] theorem State.skipIf_sp (c : Bool) : (s.skipIf c).sp = s.sp := by cases c <;> rfl
@[simp] theorem State.skipIf_dt (c : Bool) : (s.skipIf c).dt = s.dt := by cases c <;> rfl
@[simp] theorem State.skipIf_st (c : Bool) : (s.skipIf c).st = s.st := by cases c <;> rfl
@[simp] theorem State.skipIf_mem (c : Bool) : (s.skipIf c).mem = s.mem := by cases c <;> rfl
@[simp] theorem State.skipIf_fb (c : Bool) : (s.skipIf c).fb = s.fb := by cases c <;> rfl
@[simp] theorem State.skipIf_key (c : Bool) : (s.skipIf c).key = s.key := by cases c <;> rfl
@[simp] theorem State.skipIf_latch (c : Bool) : (s.skipIf c).latch = s.latch := by cases c <;> rfl
@[simp] theorem State.skipIf_running (c : Bool) : (s.skipIf c).running = s.running := by cases c <;> rfl
@[simp] theorem State.skipIf_fault (c : Bool) : (s.skipIf c).fault = s.fault := by cases c <;> rfl
@[simp] theorem State.skipIf_traceEnabled (c : Bool) : (s.skipIf c).traceEnabled = s.traceEnabled := by cases c <;> rfl
@[simp] theorem State.skipIf_history (c : Bool) : (s.skipIf c).history = s.history := by cases c <;> rfl
@[simp] theorem State.skipIf_draws (c : Bool) : (s.skipIf c).draws = s.draws := by cases c <;> rfl
@[simp] theorem State.skipIf_stamps (c : Bool) : (s.skipIf c).stamps = s.stamps := by cases c <;> rfl
@[simp] theorem State.skipIf_schedule (c : Bool) : (s.skipIf c).schedule = s.schedule := by cases c <;> rfl

@[simp] theorem State.traced_v (k : String) (a op : Word) : (s.traced k a op).v = s.v := by unfold State.traced; split <;> rfl
@[simp] theorem State.traced_i (k : String) (a op : Word) : (s.traced k a op).i = s.i := by unfold State.traced; split <;> rfl
@[simp] theorem State.traced_pc (k : String) (a op : Word) : (s.traced k a op).pc = s.pc := by unfold State.traced; split <;> rfl
@[simp] theorem State.traced_stack (k : String) (a op : Word) : (s.traced k a op).stack = s.stack := by unfold State.traced; split <;> rfl
@[simp] theorem State.traced_sp (k : String) (a op : Word) : (s.traced k a op).sp = s.sp := by unfold State.traced; split <;> rfl
@[simp] theorem State.traced_dt (k : String) (a op : Word) : (s.traced k a op).dt = s.dt := by unfold State.traced; split <;> rfl
@[simp] theorem State.traced_st (k : String) (a op : Word) : (s.traced k a op).st = s.st := by unfold State.traced; split <;> rfl
@[simp] theorem State.traced_mem (k : String) (a op : Word) : (s.traced k a op).mem = s.mem := by unfold State.traced; split <;> rfl
@[simp] theorem State.traced_fb (k : String) (a op : Word) : (s.traced k a op).fb = s.fb := by unfold State.traced; split <;> rfl
@[simp] theorem State.traced_key (k : String) (a op : Word) : (s.traced k a op).key = s.key := by unfold State.traced; split <;> rfl
@[simp] theorem State.traced_latch (k : String) (a op : Word) : (s.traced k a op).latch = s.latch := by unfold State.traced; split <;> rfl
@[simp] theorem State.traced_running (k : String) (a op : Word) : (s.traced k a op).running = s.running := by unfold State.traced; split <;> rfl
@[simp] theorem State.traced_fault (k : String) (a op : Word) : (s.traced k a op).fault = s.fault := by unfold State.traced; split <;> rfl
@[simp] theorem State.traced_traceEnabled (k : String) (a op : Word) : (s.traced k a op).traceEnabled = s.traceEnabled := by unfold State.traced; split <;> rfl
@[simp] theorem State.traced_draws (k : String) (a op : Word) : (s.traced k a op).draws = s.draws := by unfold State.traced; split <;> rfl
@[simp] theorem State.traced_schedule (k : String) (a op : Word) : (s.traced k a op).schedule = s.schedule := by unfold State.traced; split <;> rfl

@[simp] theorem State.tracedUnlessFault_v (k : String) (a op : Word) : (s.tracedUnlessFault k a op).v = s.v := by unfold State.tracedUnlessFault; split <;> simp
@[simp] theorem State.tracedUnlessFault_i (k : String) (a op : Word) : (s.tracedUnlessFault k a op).i = s.i := by unfold State.tracedUnlessFault; split <;> simp
@[simp] theorem State.tracedUnlessFault_pc (k : String) (a op : Word) : (s.tracedUnlessFault k a op).pc = s.pc := by unfold State.tracedUnlessFault; split <;> simp
@[simp] theorem State.tracedUnlessFault_stack (k : String) (a op : Word) : (s.tracedUnlessFault k a op).stack = s.stack := by unfold State.tracedUnlessFault; split <;> simp
@[simp] theorem State.tracedUnlessFault_sp (k : String) (a op : Word) : (s.tracedUnlessFault k a op).sp = s.sp := by unfold State.tracedUnlessFault; split <;> simp
@[simp] theorem State.tracedUnlessFault_dt (k : String) (a op : Word) : (s.tracedUnlessFault k a op).dt = s.dt := by unfold State.tracedUnlessFault; split <;> simp
@[simp] theorem State.tracedUnlessFault_st (k : String) (a op : Word) : (s.tracedUnlessFault k a op).st = s.st := by unfold State.tracedUnlessFault; split <;> simp
@[simp] theorem State.tracedUnlessFault_mem (k : String) (a op : Word) : (s.tracedUnlessFault k a op).mem = s.mem := by unfold State.tracedUnlessFault; split <;> simp
@[simp] theorem State.tracedUnlessFault_fb (k : String) (a op : Word) : (s.tracedUnlessFault k a op).fb = s.fb := by unfold State.tracedUnlessFault; split <;> simp
@[simp] theorem State.tracedUnlessFault_key (k : String) (a op : Word) : (s.tracedUnlessFault k a op).key = s.key := by unfold State.tracedUnlessFault; split <;> simp
@[simp] theorem State.tracedUnlessFault_latch (k : String) (a op : Word) : (s.tracedUnlessFault k a op).latch = s.latch := by unfold State.tracedUnlessFault; split <;> simp
@[simp] theorem State.tracedUnlessFault_running (k : String) (a op : Word) : (s.tracedUnlessFault k a op).running = s.running := by unfold State.tracedUnlessFault; split <;> simp
@[simp] theorem State.tracedUnlessFault_fault (k : String) (a op : Word) : (s.tracedUnlessFault k a op).fault = s.fault := by unfold State.tracedUnlessFault; split <;> simp
@[simp] theorem State.tracedUnlessFault_traceEnabled (k : String) (a op : Word) : (s.tracedUnlessFault k a op).traceEnabled = s.traceEnabled := by unfold State.tracedUnlessFault; split <;> simp
@[simp] theorem State.tracedUnlessFault_draws (k : String) (a op : Word) : (s.tracedUnlessFault k a op).draws = s.draws := by unfold State.tracedUnlessFault; split <;> simp
@[simp] theorem State.tracedUnlessFault_schedule (k : String) (a op : Word) : (s.tracedUnlessFault k a op).schedule = s.schedule := by unfold State.tracedUnlessFault; split <;> simp

/-! ### registers and memory bytes after an update that does not write them -/

@[simp] theorem State.readByte_setV (x : Nibble) (b : Byte) (c : Nat) : (s.setV x b).readByte c = s.readByte c := rfl
@[simp] theorem State.getV_setPc (w : Word) (r : Nibble) : (s.setPc w).getV r = s.getV r := rfl
@[simp] theorem State.readByte_setPc (w : Word) (c : Nat) : (s.setPc w).readByte c = s.readByte c := rfl
@[simp] theorem State.getV_setI (w : Word) (r : Nibble) : (s.setI w).getV r = s.getV r := rfl
@[simp] theorem State.readByte_setI (w : Word) (c : Nat) : (s.setI w).readByte c = s.readByte c := rfl
@[simp] theorem State.getV_setDt (b : Byte) (r : Nibble) : (s.setDt b).getV r = s.getV r := rfl
@[simp] theorem State.readByte_setDt (b : Byte) (c : Nat) : (s.setDt b).readByte c = s.readByte c := rfl
@[simp] theorem State.getV_setSt (b : Byte) (r : Nibble) : (s.setSt b).getV r = s.getV r := rfl
@[simp] theorem State.readByte_setSt (b : Byte) (c : Nat) : (s.setSt b).readByte c = s.readByte c := rfl
@[simp] theorem State.getV_setFb (f : Screen) (r : Nibble) : (s.setFb f).getV r = s.getV r := rfl
@[simp] theorem State.readByte_setFb (f : Screen) (c : Nat) : (s.setFb f).readByte c = s.readByte c := rfl
@[simp] theorem State.getV_setLatch (k : Option KeyCode) (r : Nibble) : (s.setLatch k).getV r = s.getV r := rfl
@[simp] theorem State.readByte_setLatch (k : Option KeyCode) (c : Nat) : (s.setLatch k).readByte c = s.readByte c := rfl
@[simp] theorem State.getV_setKeyState (k : KeyCode) (b : Bool) (r : Nibble) : (s.setKeyState k b).getV r = s.getV r := rfl
@[simp] theorem State.readByte_setKeyState (k : KeyCode) (b : Bool) (c : Nat) : (s.setKeyState k b).readByte c = s.readByte c := rfl
@[simp] theorem State.getV_setRunning (b : Bool) (r : Nibble) : (s.setRunning b).getV r = s.getV r := rfl
@[simp] theorem State.readByte_setRunning (b : Bool) (c : Nat) : (s.setRunning b).readByte c = s.readByte c := rfl
@[simp] theorem State.getV_storeBytes (a : Nat) (bs : List Byte) (r : Nibble) : (s.storeBytes a bs).getV r = s.getV r := rfl
@[simp] theorem State.getV_emit (e : PortEvent) (r : Nibble) : (s.emit e).getV r = s.getV r := rfl
@[simp] theorem State.readByte_emit (e : PortEvent) (c : Nat) : (s.emit e).readByte c = s.readByte c := rfl
@[simp] theorem State.getV_showScreen (f : Screen) (r : Nibble) : (s.showScreen f).getV r = s.getV r := rfl
@[simp] theorem State.readByte_showScreen (f : Screen) (c : Nat) : (s.showScreen f).readByte c = s.readByte c := rfl
@[simp] theorem State.getV_takeFault (k : FaultKind) (a op : Word) (r : Nibble) : (s.takeFault k a op).getV r = s.getV r := rfl
@[simp] theorem State.readByte_takeFault (k : FaultKind) (a op : Word) (c : Nat) : (s.takeFault k a op).readByte c = s.readByte c := rfl
@[simp] theorem State.getV_faultAt (k : FaultKind) (ins : Instr) (r : Nibble) : (s.faultAt k ins).getV r = s.getV r := rfl
@[simp] theorem State.readByte_faultAt (k : FaultKind) (ins : Instr) (c : Nat) : (s.faultAt k ins).readByte c = s.readByte c := rfl
@[simp] theorem State.readByte_setFlagAndResult (x : Nibble) (fl b : Byte) (c : Nat) : (s.setFlagAndResult x fl b).readByte c = s.readByte c := rfl
@[simp] theorem State.getV_tickTimers (r : Nibble) : s.tickTimers.getV r = s.getV r := rfl
@[simp] theorem State.readByte_tickTimers (c : Nat) : s.tickTimers.readByte c = s.readByte c := rfl
@[simp] theorem State.getV_dequeue (r : Nibble) : s.dequeue.getV r = s.getV r := rfl
@[simp] theorem State.readByte_dequeue (c : Nat) : s.dequeue.readByte c = s.readByte c := rfl

/-- With tracing off a step leaves no trace line (R223). -/
theorem State.traced_off (k : String) (a op : Word) (h : s.traceEnabled = false) : s.traced k a op = s := by
  simp [State.traced, h]

/-- With tracing off a step leaves no trace line (R223). -/
theorem State.tracedUnlessFault_off (k : String) (a op : Word) (h : s.traceEnabled = false) :
    s.tracedUnlessFault k a op = s := by
  unfold State.tracedUnlessFault; split <;> simp [State.traced_off, h]

/-- A step that faulted leaves no trace line (R206). -/
theorem State.tracedUnlessFault_faulted (k : String) (a op : Word) (f : FaultRecord) (h : s.fault = some f) :
    s.tracedUnlessFault k a op = s := by
  simp [State.tracedUnlessFault, h]

/-- A trace line is appended to the port history and nothing of it is read (R220). -/
theorem State.tracedUnlessFault_history (k : String) (a op : Word) :
    ∃ new, (s.tracedUnlessFault k a op).history = s.history ++ new := by
  unfold State.tracedUnlessFault State.traced
  split
  · split
    · exact ⟨_, rfl⟩
    · exact ⟨[], by simp⟩
  · exact ⟨[], by simp⟩

/-! ### reading a register after writing one -/

/-- Reading the register just written. -/
@[simp] theorem State.getV_setV_same (x : Nibble) (b : Byte) : (s.setV x b).getV x = b := by
  simp [State.getV]

/-- Reading another register. -/
theorem State.getV_setV_ne (x r : Nibble) (b : Byte) (h : r ≠ x) : (s.setV x b).getV r = s.getV r := by
  have : x.toNat ≠ r.toNat := fun e => h (BitVec.eq_of_toNat_eq e.symm)
  simp [State.getV, Vector.getElem_set_ne, this]

/-- Reading a register after any write of one. -/
theorem State.getV_setV (x r : Nibble) (b : Byte) : (s.setV x b).getV r = if r = x then b else s.getV r := by
  by_cases h : r = x
  · subst h; simp
  · simp [h, State.getV_setV_ne]

/-- After flag and result: the result in x, the flag in VF (where x is not F), every other register as it was (R121). -/
theorem State.getV_setFlagAndResult (x r : Nibble) (fl b : Byte) :
    (s.setFlagAndResult x fl b).getV r = if r = x then b else if r = 0xF then fl else s.getV r := by
  rw [State.setFlagAndResult, State.getV_setV, State.getV_setV]; rfl

/-- A register is read from `v` alone. -/
theorem State.getV_congr (t : State) (h : t.v = s.v) (r : Nibble) : t.getV r = s.getV r := by
  simp [State.getV, h]

/-- A memory byte is read from `mem` alone. -/
theorem State.readByte_congr (t : State) (h : t.mem = s.mem) (a : Nat) : t.readByte a = s.readByte a := by
  simp [State.readByte, h]

/-! ### loading a block of registers -/

@[simp] theorem State.loadRegs_i (k : Nat) (bs : List Byte) : (s.loadRegs k bs).i = s.i := by
  induction bs generalizing s k with
  | nil => rfl
  | cons b bs ih => simp [State.loadRegs, ih]
@[simp] theorem State.loadRegs_pc (k : Nat) (bs : List Byte) : (s.loadRegs k bs).pc = s.pc := by
  induction bs generalizing s k with
  | nil => rfl
  | cons b bs ih => simp [State.loadRegs, ih]
@[simp] theorem State.loadRegs_stack (k : Nat) (bs : List Byte) : (s.loadRegs k bs).stack = s.stack := by
  induction bs generalizing s k with
  | nil => rfl
  | cons b bs ih => simp [State.loadRegs, ih]
@[simp] theorem State.loadRegs_sp (k : Nat) (bs : List Byte) : (s.loadRegs k bs).sp = s.sp := by
  induction bs generalizing s k with
  | nil => rfl
  | cons b bs ih => simp [State.loadRegs, ih]
@[simp] theorem State.loadRegs_dt (k : Nat) (bs : List Byte) : (s.loadRegs k bs).dt = s.dt := by
  induction bs generalizing s k with
  | nil => rfl
  | cons b bs ih => simp [State.loadRegs, ih]
@[simp] theorem State.loadRegs_st (k : Nat) (bs : List Byte) : (s.loadRegs k bs).st = s.st := by
  induction bs generalizing s k with
  | nil => rfl
  | cons b bs ih => simp [State.loadRegs, ih]
@[simp] theorem State.loadRegs_mem (k : Nat) (bs : List Byte) : (s.loadRegs k bs).mem = s.mem := by
  induction bs generalizing s k with
  | nil => rfl
  | cons b bs ih => simp [State.loadRegs, ih]
@[simp] theorem State.loadRegs_fb (k : Nat) (bs : List Byte) : (s.loadRegs k bs).fb = s.fb := by
  induction bs generalizing s k with
  | nil => rfl
  | cons b bs ih => simp [State.loadRegs, ih]
@[simp] theorem State.loadRegs_key (k : Nat) (bs : List Byte) : (s.loadRegs k bs).key = s.key := by
  induction bs generalizing s k with
  | nil => rfl
  | cons b bs ih => simp [State.loadRegs, ih]
@[simp] theorem State.loadRegs_latch (k : Nat) (bs : List Byte) : (s.loadRegs k bs).latch = s.latch := by
  induction bs generalizing s k with
  | nil => rfl
  | cons b bs ih => simp [State.loadRegs, ih]
@[simp] theorem State.loadRegs_running (k : Nat) (bs : List Byte) : (s.loadRegs k bs).running = s.running := by
  induction bs generalizing s k with
  | nil => rfl
  | cons b bs ih => simp [State.loadRegs, ih]
@[simp] theorem State.loadRegs_fault (k : Nat) (bs : List Byte) : (s.loadRegs k bs).fault = s.fault := by
  induction bs generalizing s k with
  | nil => rfl
  | cons b bs ih => simp [State.loadRegs, ih]
@[simp] theorem State.loadRegs_traceEnabled (k : Nat) (bs : List Byte) : (s.loadRegs k bs).traceEnabled = s.traceEnabled := by
  induction bs generalizing s k with
  | nil => rfl
  | cons b bs ih => simp [State.loadRegs, ih]
@[simp] theorem State.loadRegs_history (k : Nat) (bs : List Byte) : (s.loadRegs k bs).history = s.history := by
  induction bs generalizing s k with
  | nil => rfl
  | cons b bs ih => simp [State.loadRegs, ih]
@[simp] theorem State.loadRegs_draws (k : Nat) (bs : List Byte) : (s.loadRegs k bs).draws = s.draws := by
  induction bs generalizing s k with
  | nil => rfl
  | cons b bs ih => simp [State.loadRegs, ih]
@[simp] theorem State.loadRegs_stamps (k : Nat) (bs : List Byte) : (s.loadRegs k bs).stamps = s.stamps := by
  induction bs generalizing s k with
  | nil => rfl
  | cons b bs ih => simp [State.loadRegs, ih]
@[simp] theorem State.loadRegs_schedule (k : Nat) (bs : List Byte) : (s.loadRegs k bs).schedule = s.schedule := by
  induction bs generalizing s k with
  | nil => rfl
  | cons b bs ih => simp [State.loadRegs, ih]

/-- A block load changes the registers only (R171). -/
theorem State.loadRegs_eq (k : Nat) (bs : List Byte) : s.loadRegs k bs = { s with v := (s.loadRegs k bs).v } := by
  induction bs generalizing s k with
  | nil => rfl
  | cons b bs ih => simp only [State.loadRegs]; rw [ih]; rfl

end Sys2Proof.Machine
end

