-- ==== Sys2Proof/Laws/Ops.lean ====
section
/-! SUPPORT. One lemma per shared operation that says once everything it can do. -/

namespace Sys2Proof.Machine

variable (s : State)

/-! ## The stack (R30) -/

/-- A push below 16 calls: SP + 1 and slot SP + 1 written (R104). -/
theorem State.push_of_lt (w : Word) (h : s.sp.val < 16) :
    s.push w = some { s with sp := ⟨s.sp.val + 1, by omega⟩, stack := s.stack.set s.sp.val w h } := by
  simp [State.push, h]

/-- A push of a seventeenth call has no slot (R202). -/
theorem State.push_full (w : Word) (h : s.sp.val = 16) : s.push w = none := by
  simp [State.push, h]

/-- A pop with no active call has nothing to give (R203). -/
theorem State.pop_empty (h : s.sp.val = 0) : s.pop = none := by
  simp [State.pop, h]

/-- A pop with k + 1 active calls: slot k + 1, and SP = k (R101). -/
theorem State.pop_of_succ (k : Nat) (h : s.sp.val = k + 1) (hk : k < 16) :
    s.pop = some (s.stack[k], { s with sp := ⟨k, by omega⟩ }) := by
  have h0 : s.sp.val ≠ 0 := by omega
  have hk' : s.sp.val - 1 = k := by omega
  simp only [State.pop, h0, dif_neg, not_false_eq_true, hk']

/-! ## Operands (R73) -/

theorem addrOperand_toNat (nnn : Addr12) : (addrOperand nnn).toNat = nnn.toNat := by
  have := nnn.isLt
  rw [addrOperand, BitVec.toNat_setWidth]; omega

/-- nnn + V0 needs no wrap in 16 bits (R141). -/
theorem jumpV0Target_toNat (nnn : Addr12) (b : Byte) : (jumpV0Target nnn b).toNat = nnn.toNat + b.toNat := by
  have := nnn.isLt
  have := b.isLt
  rw [jumpV0Target, BitVec.toNat_add, addrOperand_toNat, BitVec.toNat_setWidth]; omega

/-- FONT_BASE + 5 * Vx needs no wrap in 16 bits (R168). -/
theorem glyphAddr_toNat (b : Byte) : (glyphAddr b).toNat = fontBase + 5 * b.toNat := by
  have := b.isLt
  rw [glyphAddr, BitVec.toNat_ofNat, fontBase, fontGlyphBytes]; omega

/-- A register's value below 16 names the key of that code (R160). -/
theorem keyOperand_of_lt (b : Byte) (h : b.toNat < 16) : keyOperand b = some ⟨b.toNat, h⟩ := by
  simp [keyOperand, h]

/-- A register's value above 15 names no key (R160). -/
theorem keyOperand_none (b : Byte) (h : 15 < b.toNat) : keyOperand b = none := by
  simp [keyOperand]; omega

theorem keyValue_toNat (k : KeyCode) : (keyValue k).toNat = k.val := by
  rw [keyValue, BitVec.toNat_ofNat]; omega

/-! ## Blocks of registers (R170, R171) -/

theorem State.regBlock_length (x : Nibble) : (s.regBlock x).length = x.toNat + 1 := by
  have := x.isLt
  simp [State.regBlock, blockLength]; omega

/-- The k-th byte of the block V0..Vx is V[k]. -/
theorem State.regBlock_getElem (x : Nibble) (k : Nat) (h : k < (s.regBlock x).length) (hk : k < 16) :
    (s.regBlock x)[k] = s.v[k] := by
  simp [State.regBlock]

/-- Loading a block writes exactly the registers of the block, each with its byte (R171). -/
theorem State.getV_loadRegs (k : Nat) (bs : List Byte) (r : Nibble) (hk : k + bs.length ≤ 16) :
    (s.loadRegs k bs).getV r =
      if h : k ≤ r.toNat ∧ r.toNat < k + bs.length then bs[r.toNat - k]'(by omega) else s.getV r := by
  induction bs generalizing s k with
  | nil => rw [dif_neg (by simp)]; rfl
  | cons b bs ih =>
    simp only [List.length_cons] at hk ⊢
    rw [State.loadRegs, ih _ (k + 1) (by omega), State.getV_setV]
    by_cases h1 : k + 1 ≤ r.toNat ∧ r.toNat < k + 1 + bs.length
    · rw [dif_pos h1, dif_pos (by omega)]
      have : r.toNat - k = (r.toNat - (k + 1)) + 1 := by omega
      simp [this]
    · rw [dif_neg h1]
      by_cases h2 : r.toNat = k
      · have h3 : r = BitVec.ofNat 4 k := by
          apply BitVec.eq_of_toNat_eq; rw [BitVec.toNat_ofNat]; have := r.isLt; omega
        rw [if_pos h3, dif_pos (by omega)]
        simp [h2]
      · have h3 : r ≠ BitVec.ofNat 4 k := by
          intro e; apply h2; rw [e, BitVec.toNat_ofNat]; omega
        rw [if_neg h3, dif_neg (by omega)]

/-! ## The cycle (R250) -/

/-- The fetch bounds check on numbers (R54). -/
theorem State.fetch_of_le (h : s.pc.toNat ≤ 0xFFE) : s.fetch = some (s.wordAt s.pc.toNat) := by
  simp [State.fetch, inBounds, Config.memSize]; omega

theorem State.fetch_none (h : 0xFFE < s.pc.toNat) : s.fetch = none := by
  simp [State.fetch, inBounds, Config.memSize]; omega

/-- A memory range check on numbers (R53). -/
theorem inBounds_iff (a n : Nat) : inBounds a n = true ↔ a + n ≤ 4096 := by
  rw [inBounds, Config.memSize, decide_eq_true_eq]

/-! ## The timers (R226) -/

theorem countDown_toNat (b : Byte) : (countDown b).toNat = b.toNat - 1 := by
  unfold countDown
  split
  · next h => subst h; rfl
  · next h =>
    have h0 : b.toNat ≠ 0 := fun e => h (BitVec.eq_of_toNat_eq e)
    have := b.isLt
    rw [BitVec.toNat_sub]
    have h1 : (1 : Byte).toNat = 1 := rfl
    rw [h1]; omega

/-! ## The next step of the interleaving -/

theorem step_eq : step s = agentStep s.nextAgent s.dequeue := rfl

theorem State.nextAgent_nil (h : s.schedule = []) : s.nextAgent = .cpuTick := by simp [State.nextAgent, h]

theorem State.nextAgent_cons (e : AgentStep) (rest : List AgentStep) (h : s.schedule = e :: rest) : s.nextAgent = e := by
  simp [State.nextAgent, h]

end Sys2Proof.Machine
end

