-- ==== Sys2Proof/Laws/Cycle.lean ====
section
/-! SUPPORT. What a CPU tick can do, said once (70_reset R250, 60_exceptions R206, R210), the trace line of a step (R223), and what
weak fairness gives (R228). -/

namespace Sys2Proof.Machine

/-- An enabled CPU activity has no standing fault (R40). -/
theorem State.fault_of_cpuEnabled (s : State) (h : s.cpuEnabled = true) : s.fault = none := by
  simp [State.cpuEnabled] at h
  exact h.2

/-- The model's trace line is the one that claims use (R223). -/
theorem State.tracedUnlessFault_eq (t : State) (kind : String) (a op : Word) :
    t.tracedUnlessFault kind a op = t.afterTrace kind a op := by
  unfold State.tracedUnlessFault State.traced State.afterTrace
  cases t.fault <;> cases t.traceEnabled <;> simp

/-- Everything a CPU tick can do: nothing (no step), a fetch fault, an unknown word, or an instruction. -/
theorem cpuTick_cases (s t : State) (h : cpuTick s = .next t) :
    (s.cpuEnabled = false ∧ t = s) ∨
    (s.cpuEnabled = true ∧ s.fetch = none ∧ t = s.takeFault .outOfBounds s.pc 0) ∨
    (∃ op e, s.cpuEnabled = true ∧ s.fetch = some op ∧ decodeWord op = .error e ∧
      t = (s.setPc (s.pc + 2)).tracedUnlessFault "unknown" s.pc op) ∨
    (∃ op i u, s.cpuEnabled = true ∧ s.fetch = some op ∧ decodeWord op = .ok i ∧
      exec i (s.setPc (s.pc + 2)) = .next u ∧ t = u.tracedUnlessFault i.mnemonic s.pc op) := by
  unfold cpuTick at h
  split at h
  · rename_i he
    right
    unfold State.cycle at h
    split at h
    · cases h
      exact .inl ⟨he, by assumption, rfl⟩
    · right
      rename_i op hop
      unfold State.runWord at h
      split at h
      · cases h
        exact .inl ⟨op, _, he, hop, by assumption, rfl⟩
      · split at h
        · cases h
          exact .inr ⟨op, _, _, he, hop, by assumption, by assumption, rfl⟩
        · cases h
        · cases h
  · rename_i he
    cases h
    exact .inl ⟨by simpa using he, rfl⟩

/-- An activity that stays enabled from `n` on steps infinitely often in a run weakly fair to it (R228). -/
theorem WeaklyFair.infinitely_often {enabled : State → Bool} {agent : AgentStep} {ev : Nat → AgentStep} {run : Nat → State}
    (hf : WeaklyFair enabled agent ev run) (n : Nat) (he : ∀ m, n ≤ m → enabled (run m) = true) (k : Nat) :
    ∃ m, k ≤ m ∧ ev m = agent := by
  obtain ⟨m, hm, ha⟩ := hf (max n k) fun m h => he m (le_trans (le_max_left n k) h)
  exact ⟨m, le_trans (le_max_right n k) hm, ha⟩

end Sys2Proof.Machine
end

