-- ==== Sys2Proof/Laws/Decode.lean ====
section
/-! SUPPORT. The words of the encoder as numbers, and their fields (30_encoding R72): decoding reads back what the encoder of each format
wrote. -/

namespace Sys2Proof

/-! ## Numbers -/

/-- A concatenation as a number. -/
theorem toNat_append_eq {m k : Nat} (a : BitVec m) (b : BitVec k) : (a ++ b).toNat = a.toNat * 2 ^ k + b.toNat := by
  rw [BitVec.toNat_append, ← Nat.shiftLeft_add_eq_or_of_lt b.isLt, Nat.shiftLeft_eq]

theorem encA_toNat (f : Nibble) (nnn : Addr12) : (encA f nnn).toNat = f.toNat * 4096 + nnn.toNat :=
  toNat_append_eq f nnn

theorem encXNN_toNat (f x : Nibble) (nn : Byte) :
    (encXNN f x nn).toNat = f.toNat * 4096 + x.toNat * 256 + nn.toNat := by
  have h := toNat_append_eq f (x ++ nn)
  rw [toNat_append_eq x nn] at h
  rw [encXNN, h]; omega

theorem encXYN_toNat (f x y n : Nibble) :
    (encXYN f x y n).toNat = f.toNat * 4096 + x.toNat * 256 + y.toNat * 16 + n.toNat := by
  have h := toNat_append_eq f (x ++ (y ++ n : BitVec 8))
  rw [toNat_append_eq x (y ++ n : BitVec 8), toNat_append_eq y n] at h
  rw [encXYN, h]; omega

/-- The encoder's formats written as one concatenation of their fields. -/
theorem encXNN_eq (f x : Nibble) (nn : Byte) : encXNN f x nn = f ++ x ++ nn := by
  apply BitVec.eq_of_toNat_eq
  rw [encXNN_toNat, toNat_append_eq, toNat_append_eq]; omega

theorem encXYN_eq (f x y n : Nibble) : encXYN f x y n = f ++ x ++ y ++ n := by
  apply BitVec.eq_of_toNat_eq
  rw [encXYN_toNat, toNat_append_eq, toNat_append_eq, toNat_append_eq]; omega

/-! ## The fields of any word as numbers -/

theorem opFamily_toNat (w : Word) : (opFamily w).toNat = w.toNat / 4096 := by
  rw [opFamily, BitVec.extractLsb'_toNat, Nat.shiftRight_eq_div_pow]; have := w.isLt; omega
theorem opX_toNat (w : Word) : (opX w).toNat = w.toNat / 256 % 16 := by
  rw [opX, BitVec.extractLsb'_toNat, Nat.shiftRight_eq_div_pow]
theorem opY_toNat (w : Word) : (opY w).toNat = w.toNat / 16 % 16 := by
  rw [opY, BitVec.extractLsb'_toNat, Nat.shiftRight_eq_div_pow]
theorem opN_toNat (w : Word) : (opN w).toNat = w.toNat % 16 := by
  rw [opN, BitVec.extractLsb'_toNat, Nat.shiftRight_zero]
theorem opNN_toNat (w : Word) : (opNN w).toNat = w.toNat % 256 := by
  rw [opNN, BitVec.extractLsb'_toNat, Nat.shiftRight_zero]
theorem opNNN_toNat (w : Word) : (opNNN w).toNat = w.toNat % 4096 := by
  rw [opNNN, BitVec.extractLsb'_toNat, Nat.shiftRight_zero]

/-! ## The fields of an encoded word -/

@[simp] theorem opFamily_encA (f : Nibble) (nnn : Addr12) : opFamily (encA f nnn) = f := by
  apply BitVec.eq_of_toNat_eq; rw [opFamily_toNat, encA_toNat]; have := nnn.isLt; omega
@[simp] theorem opNNN_encA (f : Nibble) (nnn : Addr12) : opNNN (encA f nnn) = nnn := by
  apply BitVec.eq_of_toNat_eq; rw [opNNN_toNat, encA_toNat]; have := nnn.isLt; omega
@[simp] theorem opNN_encA (f : Nibble) (nnn : Addr12) : opNN (encA f nnn) = nnn.setWidth 8 := by
  apply BitVec.eq_of_toNat_eq; rw [opNN_toNat, encA_toNat, BitVec.toNat_setWidth]; omega

@[simp] theorem opFamily_encXNN (f x : Nibble) (nn : Byte) : opFamily (encXNN f x nn) = f := by
  apply BitVec.eq_of_toNat_eq; rw [opFamily_toNat, encXNN_toNat]; have := nn.isLt; have := x.isLt; omega
@[simp] theorem opX_encXNN (f x : Nibble) (nn : Byte) : opX (encXNN f x nn) = x := by
  apply BitVec.eq_of_toNat_eq; rw [opX_toNat, encXNN_toNat]; have := nn.isLt; have := x.isLt; omega
@[simp] theorem opNN_encXNN (f x : Nibble) (nn : Byte) : opNN (encXNN f x nn) = nn := by
  apply BitVec.eq_of_toNat_eq; rw [opNN_toNat, encXNN_toNat]; have := nn.isLt; omega

@[simp] theorem opFamily_encXYN (f x y n : Nibble) : opFamily (encXYN f x y n) = f := by
  apply BitVec.eq_of_toNat_eq; rw [opFamily_toNat, encXYN_toNat]; have := x.isLt; have := y.isLt; have := n.isLt; omega
@[simp] theorem opX_encXYN (f x y n : Nibble) : opX (encXYN f x y n) = x := by
  apply BitVec.eq_of_toNat_eq; rw [opX_toNat, encXYN_toNat]; have := x.isLt; have := y.isLt; have := n.isLt; omega
@[simp] theorem opY_encXYN (f x y n : Nibble) : opY (encXYN f x y n) = y := by
  apply BitVec.eq_of_toNat_eq; rw [opY_toNat, encXYN_toNat]; have := y.isLt; have := n.isLt; omega
@[simp] theorem opN_encXYN (f x y n : Nibble) : opN (encXYN f x y n) = n := by
  apply BitVec.eq_of_toNat_eq; rw [opN_toNat, encXYN_toNat]; have := n.isLt; omega

/-! ## A word from its fields, for every format -/

theorem encA_fields (w : Word) : encA (opFamily w) (opNNN w) = w := by
  apply BitVec.eq_of_toNat_eq; rw [encA_toNat, opFamily_toNat, opNNN_toNat]; omega
theorem encXNN_fields (w : Word) : encXNN (opFamily w) (opX w) (opNN w) = w := by
  apply BitVec.eq_of_toNat_eq; rw [encXNN_toNat, opFamily_toNat, opX_toNat, opNN_toNat]; omega
theorem encXYN_fields (w : Word) : encXYN (opFamily w) (opX w) (opY w) (opN w) = w := by
  apply BitVec.eq_of_toNat_eq; rw [encXYN_toNat, opFamily_toNat, opX_toNat, opY_toNat, opN_toNat]; omega

/-! ## Bytes -/

/-- The two bytes of a word, put together again (R50). -/
@[simp] theorem wordOfBytes_high_low (w : Word) : wordOfBytes (highByte w) (lowByte w) = w := by
  apply BitVec.eq_of_toNat_eq
  rw [wordOfBytes]
  have h := toNat_append_eq (highByte w) (lowByte w)
  rw [h, highByte, lowByte, BitVec.extractLsb'_toNat, BitVec.extractLsb'_toNat, Nat.shiftRight_eq_div_pow,
    Nat.shiftRight_zero]
  have := w.isLt; omega

end Sys2Proof
end

