-- ==== Sys2Proof/Laws/Draw.lean ====
section
/-! SUPPORT. The pixels and the collision of a draw, bit by bit, row by row and for the whole sprite (42_index_draw R144, R146, R147). -/

namespace Sys2Proof.Machine

/-- The screen of a plotted bit: that pixel inverted, every other one as it was. -/
theorem pixelAt_plot (k : Canvas) (px py qx qy : Nat) (hx : px < 64) (hy : py < 32) (hq : qx < 64) :
    pixelAt (plot k px py).fb qx qy = (pixelAt k.fb qx qy ^^ decide (qx = px ∧ qy = py)) := by
  unfold plot
  rw [dif_pos hy]
  unfold pixelAt
  by_cases h : qy < 32
  · rw [dif_pos h, dif_pos h]
    by_cases e : qy = py
    · subst e
      simp only [Vector.getElem_set_self, BitVec.getLsbD_xor, and_true]
      congr 1
      simp only [BitVec.getLsbD_shiftLeft, hq, decide_true, Bool.true_and]
      by_cases c : qx = px
      · subst c; simp
      · rcases Nat.lt_or_gt_of_ne c with c | c
        · simp [c, Nat.ne_of_lt c]
        · simp [Nat.ne_of_gt c, Nat.not_lt.mpr (Nat.le_of_lt c), BitVec.getLsbD_one]; omega
    · rw [Vector.getElem_set_ne _ _ (Ne.symm e)]; simp [e]
  · rw [dif_neg h, dif_neg h]
    have : ¬(qx = px ∧ qy = py) := by omega
    simp [this]

/-- The collision output of a plotted bit: the pixel was on (R147). -/
theorem collision_plot (k : Canvas) (px py : Nat) (hy : py < 32) :
    (plot k px py).collision = (k.collision || pixelAt k.fb px py) := by
  unfold plot pixelAt
  rw [dif_pos hy, dif_pos hy]

/-! ## One row

`hit` says that a set bit of the row lands on a pixel. The columns of one row land on different pixels (R146), so the order in which they
are plotted does not matter. -/

/-- Column `c` of row `r` is set and lands on (qx, qy). -/
abbrev BitLands (xs ys r : Nat) (b : Byte) (qx qy c : Nat) : Prop :=
  b.getLsbD (7 - c) = true ∧ qx = (xs + c) % 64 ∧ qy = (ys + r) % 32

theorem pixelAt_drawBit (xs ys r : Nat) (b : Byte) (k : Canvas) (c qx qy : Nat) (hq : qx < 64) :
    pixelAt (drawBit xs ys r b k c).fb qx qy = (pixelAt k.fb qx qy ^^ decide (BitLands xs ys r b qx qy c)) := by
  unfold drawBit
  split
  · next h =>
    rw [pixelAt_plot _ _ _ _ _ (Nat.mod_lt _ (by decide)) (Nat.mod_lt _ (by decide)) hq]
    simp [BitLands, h]
  · next h => simp [BitLands, h]

theorem collision_drawBit (xs ys r : Nat) (b : Byte) (k : Canvas) (c : Nat) :
    (drawBit xs ys r b k c).collision =
      (k.collision || (b.getLsbD (7 - c) && pixelAt k.fb ((xs + c) % 64) ((ys + r) % 32))) := by
  unfold drawBit
  split
  · next h => rw [collision_plot _ _ _ (Nat.mod_lt _ (by decide))]; simp [h]
  · next h => simp [h]

/-- The pixels after plotting the columns `cs`, all different and below 64. -/
theorem pixelAt_foldl_drawBit (xs ys r : Nat) (b : Byte) (cs : List Nat) (k : Canvas) (qx qy : Nat) (hq : qx < 64)
    (hn : cs.Nodup) (hc : ∀ c ∈ cs, c < 64) :
    pixelAt (cs.foldl (drawBit xs ys r b) k).fb qx qy =
      (pixelAt k.fb qx qy ^^ decide (∃ c ∈ cs, BitLands xs ys r b qx qy c)) := by
  induction cs generalizing k with
  | nil => simp
  | cons c cs ih =>
    obtain ⟨hnc, hn'⟩ := List.nodup_cons.mp hn
    rw [List.foldl_cons, ih _ hn' (fun d hd => hc d (List.mem_cons_of_mem _ hd)), pixelAt_drawBit _ _ _ _ _ _ _ _ hq]
    by_cases h : BitLands xs ys r b qx qy c
    · have h2 : ¬∃ d ∈ cs, BitLands xs ys r b qx qy d := by
        rintro ⟨d, hd, -, e, -⟩
        have h64 := hc d (List.mem_cons_of_mem _ hd)
        have h64' := hc c List.mem_cons_self
        have e' := h.2.1
        exact hnc ((show c = d by omega) ▸ hd)
      have h3 : ∃ d ∈ c :: cs, BitLands xs ys r b qx qy d := ⟨c, List.mem_cons_self, h⟩
      rw [decide_eq_true h, decide_eq_false h2, decide_eq_true h3, Bool.xor_false]
    · have h3 : (∃ d ∈ c :: cs, BitLands xs ys r b qx qy d) ↔ ∃ d ∈ cs, BitLands xs ys r b qx qy d := by
        simp only [List.mem_cons, exists_eq_or_imp, h, false_or]
      rw [decide_eq_false h, Bool.xor_false, decide_eq_decide.mpr h3]

/-- The collision of plotting the columns `cs`, all different and below 64: a set one was on before the first of them (R147). -/
theorem collision_foldl_drawBit (xs ys r : Nat) (b : Byte) (cs : List Nat) (k : Canvas) (hn : cs.Nodup) (hc : ∀ c ∈ cs, c < 64) :
    (cs.foldl (drawBit xs ys r b) k).collision =
      (k.collision || decide (∃ c ∈ cs, b.getLsbD (7 - c) = true ∧ pixelAt k.fb ((xs + c) % 64) ((ys + r) % 32) = true)) := by
  induction cs generalizing k with
  | nil => simp
  | cons c cs ih =>
    obtain ⟨hnc, hn'⟩ := List.nodup_cons.mp hn
    rw [List.foldl_cons, ih _ hn' (fun d hd => hc d (List.mem_cons_of_mem _ hd)), collision_drawBit]
    have same : ∀ d ∈ cs, pixelAt (drawBit xs ys r b k c).fb ((xs + d) % 64) ((ys + r) % 32) =
        pixelAt k.fb ((xs + d) % 64) ((ys + r) % 32) := by
      intro d hd
      rw [pixelAt_drawBit _ _ _ _ _ _ _ _ (Nat.mod_lt _ (by decide))]
      have h64 := hc d (List.mem_cons_of_mem _ hd)
      have h64' := hc c List.mem_cons_self
      have hne : c ≠ d := fun e => hnc (e ▸ hd)
      have : ¬BitLands xs ys r b ((xs + d) % 64) ((ys + r) % 32) c := by
        rintro ⟨-, e, -⟩; omega
      simp [this]
    have e : (∃ d ∈ cs, b.getLsbD (7 - d) = true ∧
          pixelAt (drawBit xs ys r b k c).fb ((xs + d) % 64) ((ys + r) % 32) = true) ↔
        ∃ d ∈ cs, b.getLsbD (7 - d) = true ∧ pixelAt k.fb ((xs + d) % 64) ((ys + r) % 32) = true :=
      exists_congr fun d => and_congr_right fun hd => by rw [same d hd]
    simp [e, Bool.or_assoc, Bool.decide_or]

/-- A column of a sprite row. -/
theorem mem_columns (c : Nat) : c ∈ [0, 1, 2, 3, 4, 5, 6, 7] ↔ c < 8 := by
  simp only [List.mem_cons, List.not_mem_nil, or_false]; omega

open Classical in
/-- The pixels after drawing one row. -/
theorem pixelAt_drawRow (xs ys r : Nat) (b : Byte) (k : Canvas) (qx qy : Nat) (hq : qx < 64) :
    pixelAt (drawRow xs ys r b k).fb qx qy = (pixelAt k.fb qx qy ^^ decide (∃ c, c < 8 ∧ BitLands xs ys r b qx qy c)) := by
  rw [drawRow, pixelAt_foldl_drawBit _ _ _ _ _ _ _ _ hq (by decide) (by decide)]
  congr 1
  exact decide_eq_decide.mpr (exists_congr fun c => and_congr_left fun _ => mem_columns c)

open Classical in
/-- The collision of drawing one row. -/
theorem collision_drawRow (xs ys r : Nat) (b : Byte) (k : Canvas) :
    (drawRow xs ys r b k).collision = (k.collision ||
      decide (∃ c, c < 8 ∧ b.getLsbD (7 - c) = true ∧ pixelAt k.fb ((xs + c) % 64) ((ys + r) % 32) = true)) := by
  rw [drawRow, collision_foldl_drawBit _ _ _ _ _ _ (by decide) (by decide)]
  congr 1
  exact decide_eq_decide.mpr (exists_congr fun c => and_congr_left fun _ => mem_columns c)

/-! ## The whole sprite: at most 32 rows, which land on different screen rows (R146) -/

/-- A set bit of the rows `bs`, the first of them row `r` of the sprite, lands on (qx, qy). -/
abbrev RowsLand (xs ys r : Nat) (bs : List Byte) (qx qy : Nat) : Prop :=
  ∃ j c, c < 8 ∧ ∃ h : j < bs.length, BitLands xs ys (r + j) bs[j] qx qy c

theorem rowsLand_cons (xs ys r : Nat) (b : Byte) (bs : List Byte) (qx qy : Nat) :
    RowsLand xs ys r (b :: bs) qx qy ↔
      (∃ c, c < 8 ∧ BitLands xs ys r b qx qy c) ∨ RowsLand xs ys (r + 1) bs qx qy := by
  constructor
  · rintro ⟨j, c, hc, h, hl⟩
    cases j with
    | zero => exact .inl ⟨c, hc, hl⟩
    | succ j =>
      refine .inr ⟨j, c, hc, by simpa using h, ?_⟩
      have : r + (j + 1) = r + 1 + j := by omega
      simpa [BitLands, this] using hl
  · rintro (⟨c, hc, hl⟩ | ⟨j, c, hc, h, hl⟩)
    · exact ⟨0, c, hc, by simp, hl⟩
    · refine ⟨j + 1, c, hc, by simpa using h, ?_⟩
      have : r + (j + 1) = r + 1 + j := by omega
      simpa [BitLands, this] using hl

open Classical in
/-- The pixels after drawing rows: one is inverted exactly when a set bit lands on it (R144). -/
theorem pixelAt_drawRows (xs ys r : Nat) (bs : List Byte) (k : Canvas) (qx qy : Nat) (hq : qx < 64) (hb : bs.length ≤ 32) :
    pixelAt (drawRows xs ys r bs k).fb qx qy = (pixelAt k.fb qx qy ^^ decide (RowsLand xs ys r bs qx qy)) := by
  induction bs generalizing r k with
  | nil => simp [drawRows, RowsLand]
  | cons b bs ih =>
    simp only [List.length_cons] at hb
    rw [drawRows, ih (r + 1) _ (by omega), pixelAt_drawRow _ _ _ _ _ _ _ hq]
    by_cases h : ∃ c, c < 8 ∧ BitLands xs ys r b qx qy c
    · have h2 : ¬RowsLand xs ys (r + 1) bs qx qy := by
        rintro ⟨j, c, -, hj, -, -, e⟩
        obtain ⟨d, -, -, -, e'⟩ := h
        omega
      have h3 : RowsLand xs ys r (b :: bs) qx qy := (rowsLand_cons ..).mpr (.inl h)
      simp only [eq_true h, eq_false h2, eq_true h3, decide_true, decide_false, Bool.xor_false]
    · have h3 : RowsLand xs ys r (b :: bs) qx qy ↔ RowsLand xs ys (r + 1) bs qx qy := by
        rw [rowsLand_cons]; simp only [h, false_or]
      simp only [eq_false h, decide_false, Bool.xor_false, h3]

open Classical in
/-- The collision of drawing rows: a set bit lands on a pixel that was on before the draw (R147). -/
theorem collision_drawRows (xs ys r : Nat) (bs : List Byte) (k : Canvas) (hb : bs.length ≤ 32) :
    (drawRows xs ys r bs k).collision =
      (k.collision || decide (∃ qx qy, RowsLand xs ys r bs qx qy ∧ pixelAt k.fb qx qy = true)) := by
  induction bs generalizing r k with
  | nil => simp [drawRows, RowsLand]
  | cons b bs ih =>
    simp only [List.length_cons] at hb
    rw [drawRows, ih (r + 1) _ (by omega), collision_drawRow, Bool.or_assoc, ← Bool.decide_or]
    congr 1
    apply decide_eq_decide.mpr
    have same : ∀ qx qy, RowsLand xs ys (r + 1) bs qx qy →
        pixelAt (drawRow xs ys r b k).fb qx qy = pixelAt k.fb qx qy := by
      rintro qx qy ⟨j, c, -, hj, -, e, e'⟩
      rw [pixelAt_drawRow _ _ _ _ _ _ _ (by omega)]
      have : ¬∃ c, c < 8 ∧ BitLands xs ys r b qx qy c := by
        rintro ⟨d, -, -, -, e''⟩; omega
      simp [this]
    constructor
    · rintro (⟨c, hc, h1, h2⟩ | ⟨qx, qy, h1, h2⟩)
      · exact ⟨_, _, (rowsLand_cons ..).mpr (.inl ⟨c, hc, h1, rfl, rfl⟩), h2⟩
      · exact ⟨qx, qy, (rowsLand_cons ..).mpr (.inr h1), same _ _ h1 ▸ h2⟩
    · rintro ⟨qx, qy, h1, h2⟩
      rcases (rowsLand_cons ..).mp h1 with ⟨c, hc, h3, rfl, rfl⟩ | h3
      · exact .inl ⟨c, hc, h3, h2⟩
      · exact .inr ⟨qx, qy, h3, (same _ _ h3).symm ▸ h2⟩

end Sys2Proof.Machine
end

