-- ==== Sys2Proof/Laws/PerInstr.lean ====
section
/-! SUPPORT. Per instruction: its word lies in its row of spec/opcode_table.json (the row's "match" and "mask"). -/

namespace Sys2Proof

/-- "mask" of the instruction's row. -/
def rowMask : Instr → Word
  | .cls _ => 0xF0FF
  | .ret _ => 0xF0FF
  | .sys _ => 0xF000
  | .jp _ => 0xF000
  | .call _ => 0xF000
  | .seImm _ _ => 0xF000
  | .sneImm _ _ => 0xF000
  | .seReg _ _ => 0xF00F
  | .ldImm _ _ => 0xF000
  | .addImm _ _ => 0xF000
  | .ldReg _ _ => 0xF00F
  | .orReg _ _ => 0xF00F
  | .andReg _ _ => 0xF00F
  | .xorReg _ _ => 0xF00F
  | .addReg _ _ => 0xF00F
  | .sub _ _ => 0xF00F
  | .shr _ _ => 0xF00F
  | .subn _ _ => 0xF00F
  | .shl _ _ => 0xF00F
  | .sneReg _ _ => 0xF00F
  | .ldI _ => 0xF000
  | .jpV0 _ => 0xF000
  | .rnd _ _ => 0xF000
  | .drw _ _ _ => 0xF000
  | .skp _ => 0xF0FF
  | .sknp _ => 0xF0FF
  | .ldVxDt _ => 0xF0FF
  | .ldVxK _ => 0xF0FF
  | .ldDtVx _ => 0xF0FF
  | .ldStVx _ => 0xF0FF
  | .addIVx _ => 0xF0FF
  | .ldFVx _ => 0xF0FF
  | .ldBVx _ => 0xF0FF
  | .ldMemVx _ => 0xF0FF
  | .ldVxMem _ => 0xF0FF

/-- "match" of the instruction's row. -/
def rowMatch : Instr → Word
  | .cls _ => 0x00E0
  | .ret _ => 0x00EE
  | .sys _ => 0x0000
  | .jp _ => 0x1000
  | .call _ => 0x2000
  | .seImm _ _ => 0x3000
  | .sneImm _ _ => 0x4000
  | .seReg _ _ => 0x5000
  | .ldImm _ _ => 0x6000
  | .addImm _ _ => 0x7000
  | .ldReg _ _ => 0x8000
  | .orReg _ _ => 0x8001
  | .andReg _ _ => 0x8002
  | .xorReg _ _ => 0x8003
  | .addReg _ _ => 0x8004
  | .sub _ _ => 0x8005
  | .shr _ _ => 0x8006
  | .subn _ _ => 0x8007
  | .shl _ _ => 0x800E
  | .sneReg _ _ => 0x9000
  | .ldI _ => 0xA000
  | .jpV0 _ => 0xB000
  | .rnd _ _ => 0xC000
  | .drw _ _ _ => 0xD000
  | .skp _ => 0xE09E
  | .sknp _ => 0xE0A1
  | .ldVxDt _ => 0xF007
  | .ldVxK _ => 0xF00A
  | .ldDtVx _ => 0xF015
  | .ldStVx _ => 0xF018
  | .addIVx _ => 0xF01E
  | .ldFVx _ => 0xF029
  | .ldBVx _ => 0xF033
  | .ldMemVx _ => 0xF055
  | .ldVxMem _ => 0xF065

/-- The word of a format-A instruction under the mask F000. -/
theorem encA_and_mask (f : Nibble) (nnn : Addr12) : encA f nnn &&& 0xF000 = encA f 0 := by
  apply BitVec.eq_of_getLsbD_eq
  intro j hj
  have e (z : Addr12) : (encA f z).getLsbD j = if j < 12 then z.getLsbD j else f.getLsbD (j - 12) :=
    BitVec.getLsbD_append
  rw [BitVec.getLsbD_and, e, e]
  have : j = 0 ∨ j = 1 ∨ j = 2 ∨ j = 3 ∨ j = 4 ∨ j = 5 ∨ j = 6 ∨ j = 7 ∨ j = 8 ∨ j = 9 ∨ j = 10 ∨ j = 11 ∨ j = 12 ∨
    j = 13 ∨ j = 14 ∨ j = 15 := by omega
  rcases this with h | h | h | h | h | h | h | h | h | h | h | h | h | h | h | h <;> subst h <;> simp

/-- The word of a format-N, -XNN or -X instruction under the masks F000 and F0FF. -/
theorem encXNN_and_mask (f x : Nibble) (nn : Byte) : encXNN f x nn &&& 0xF000 = encXNN f 0 0 ∧
    encXNN f x nn &&& 0xF0FF = encXNN f 0 nn := by
  have e (z : Nibble) (b : Byte) (j : Nat) :
      (encXNN f z b).getLsbD j = if j < 12 then (if j < 8 then b.getLsbD j else z.getLsbD (j - 8)) else f.getLsbD (j - 12) := by
    rw [← BitVec.getLsbD_append]; exact BitVec.getLsbD_append
  constructor <;>
  · apply BitVec.eq_of_getLsbD_eq
    intro j hj
    rw [BitVec.getLsbD_and, e, e]
    have : j = 0 ∨ j = 1 ∨ j = 2 ∨ j = 3 ∨ j = 4 ∨ j = 5 ∨ j = 6 ∨ j = 7 ∨ j = 8 ∨ j = 9 ∨ j = 10 ∨ j = 11 ∨ j = 12 ∨
      j = 13 ∨ j = 14 ∨ j = 15 := by omega
    rcases this with h | h | h | h | h | h | h | h | h | h | h | h | h | h | h | h <;> subst h <;> simp

/-- The word of a format-XY or -XYN instruction under the masks F000 and F00F. -/
theorem encXYN_and_mask (f x y n : Nibble) : encXYN f x y n &&& 0xF000 = encXYN f 0 0 0 ∧
    encXYN f x y n &&& 0xF00F = encXYN f 0 0 n := by
  have e (z b d : Nibble) (j : Nat) :
      (encXYN f z b d).getLsbD j = if j < 12 then (if j < 8 then (if j < 4 then d.getLsbD j else b.getLsbD (j - 4))
        else z.getLsbD (j - 8)) else f.getLsbD (j - 12) := by
    rw [← BitVec.getLsbD_append, ← BitVec.getLsbD_append]; exact BitVec.getLsbD_append
  constructor <;>
  · apply BitVec.eq_of_getLsbD_eq
    intro j hj
    rw [BitVec.getLsbD_and, e, e]
    have : j = 0 ∨ j = 1 ∨ j = 2 ∨ j = 3 ∨ j = 4 ∨ j = 5 ∨ j = 6 ∨ j = 7 ∨ j = 8 ∨ j = 9 ∨ j = 10 ∨ j = 11 ∨ j = 12 ∨
      j = 13 ∨ j = 14 ∨ j = 15 := by omega
    rcases this with h | h | h | h | h | h | h | h | h | h | h | h | h | h | h | h <;> subst h <;> simp

namespace Laws.TableRow

/-- The instruction's word agrees with its row of the opcode table. -/
def Statement (i : Instr) : Prop := encode i &&& rowMask i = rowMatch i

theorem cls (u : Nibble) : Statement (.cls u) := (encXNN_and_mask 0x0 u 0xE0).2
theorem ret (u : Nibble) : Statement (.ret u) := (encXNN_and_mask 0x0 u 0xEE).2
theorem sys (nnn : Addr12) : Statement (.sys nnn) := encA_and_mask 0x0 nnn
theorem jp (nnn : Addr12) : Statement (.jp nnn) := encA_and_mask 0x1 nnn
theorem call (nnn : Addr12) : Statement (.call nnn) := encA_and_mask 0x2 nnn
theorem seImm (x : Nibble) (nn : Byte) : Statement (.seImm x nn) := (encXNN_and_mask 0x3 x nn).1
theorem sneImm (x : Nibble) (nn : Byte) : Statement (.sneImm x nn) := (encXNN_and_mask 0x4 x nn).1
theorem seReg (x : Nibble) (y : Nibble) : Statement (.seReg x y) := (encXYN_and_mask 0x5 x y 0x0).2
theorem ldImm (x : Nibble) (nn : Byte) : Statement (.ldImm x nn) := (encXNN_and_mask 0x6 x nn).1
theorem addImm (x : Nibble) (nn : Byte) : Statement (.addImm x nn) := (encXNN_and_mask 0x7 x nn).1
theorem ldReg (x : Nibble) (y : Nibble) : Statement (.ldReg x y) := (encXYN_and_mask 0x8 x y 0x0).2
theorem orReg (x : Nibble) (y : Nibble) : Statement (.orReg x y) := (encXYN_and_mask 0x8 x y 0x1).2
theorem andReg (x : Nibble) (y : Nibble) : Statement (.andReg x y) := (encXYN_and_mask 0x8 x y 0x2).2
theorem xorReg (x : Nibble) (y : Nibble) : Statement (.xorReg x y) := (encXYN_and_mask 0x8 x y 0x3).2
theorem addReg (x : Nibble) (y : Nibble) : Statement (.addReg x y) := (encXYN_and_mask 0x8 x y 0x4).2
theorem sub (x : Nibble) (y : Nibble) : Statement (.sub x y) := (encXYN_and_mask 0x8 x y 0x5).2
theorem shr (x : Nibble) (y : Nibble) : Statement (.shr x y) := (encXYN_and_mask 0x8 x y 0x6).2
theorem subn (x : Nibble) (y : Nibble) : Statement (.subn x y) := (encXYN_and_mask 0x8 x y 0x7).2
theorem shl (x : Nibble) (y : Nibble) : Statement (.shl x y) := (encXYN_and_mask 0x8 x y 0xE).2
theorem sneReg (x : Nibble) (y : Nibble) : Statement (.sneReg x y) := (encXYN_and_mask 0x9 x y 0x0).2
theorem ldI (nnn : Addr12) : Statement (.ldI nnn) := encA_and_mask 0xA nnn
theorem jpV0 (nnn : Addr12) : Statement (.jpV0 nnn) := encA_and_mask 0xB nnn
theorem rnd (x : Nibble) (nn : Byte) : Statement (.rnd x nn) := (encXNN_and_mask 0xC x nn).1
theorem drw (x : Nibble) (y : Nibble) (n : Nibble) : Statement (.drw x y n) := (encXYN_and_mask 0xD x y n).1
theorem skp (x : Nibble) : Statement (.skp x) := (encXNN_and_mask 0xE x 0x9E).2
theorem sknp (x : Nibble) : Statement (.sknp x) := (encXNN_and_mask 0xE x 0xA1).2
theorem ldVxDt (x : Nibble) : Statement (.ldVxDt x) := (encXNN_and_mask 0xF x 0x07).2
theorem ldVxK (x : Nibble) : Statement (.ldVxK x) := (encXNN_and_mask 0xF x 0x0A).2
theorem ldDtVx (x : Nibble) : Statement (.ldDtVx x) := (encXNN_and_mask 0xF x 0x15).2
theorem ldStVx (x : Nibble) : Statement (.ldStVx x) := (encXNN_and_mask 0xF x 0x18).2
theorem addIVx (x : Nibble) : Statement (.addIVx x) := (encXNN_and_mask 0xF x 0x1E).2
theorem ldFVx (x : Nibble) : Statement (.ldFVx x) := (encXNN_and_mask 0xF x 0x29).2
theorem ldBVx (x : Nibble) : Statement (.ldBVx x) := (encXNN_and_mask 0xF x 0x33).2
theorem ldMemVx (x : Nibble) : Statement (.ldMemVx x) := (encXNN_and_mask 0xF x 0x55).2
theorem ldVxMem (x : Nibble) : Statement (.ldVxMem x) := (encXNN_and_mask 0xF x 0x65).2

end Laws.TableRow

end Sys2Proof
end

