-- ==== Sys2Proof/Tests/Slice0.lean ====
section
/-! SUPPORT. Tests, every expected result from the spec: 30_encoding's words, 95_test_vectors' vectors (named in each comment), and for
each statement with hypotheses a concrete state and operands that meet them all, at the boundary values of its clauses. -/

namespace Sys2Proof.Tests

open Sys2Proof Sys2Proof.Machine

/-! ## Well-formedness: the one check, on both words it excludes -/

theorem test_wf_sys_refused_e0 : ¬WellFormed (.sys 0x0E0) := by decide
theorem test_wf_sys_refused_ee : ¬WellFormed (.sys 0x5EE) := by decide
theorem test_wf_sys_accepted : WellFormed (.sys 0x000) ∧ WellFormed (.sys 0xFE1) ∧ WellFormed (.sys 0x0ED) := by decide
theorem test_wf_others_accepted : WellFormed (.cls 0x0) ∧ WellFormed (.jp 0x0E0) ∧ WellFormed (.ldVxMem 0xF) := by decide

/-! ## Decoding: one word per operation, written out bit by bit from 30_encoding -/

theorem test_decode_cls : decodeWord 0b0000_0101_1110_0000 = .ok (.cls 0x5) := by decide
theorem test_decode_ret : decodeWord 0b0000_0000_1110_1110 = .ok (.ret 0x0) := by decide
theorem test_decode_sys : decodeWord 0b0000_0001_0010_0011 = .ok (.sys 0x123) := by decide
theorem test_decode_jp : decodeWord 0b0001_0010_0000_1000 = .ok (.jp 0x208) := by decide
theorem test_decode_call : decodeWord 0b0010_0011_0000_0000 = .ok (.call 0x300) := by decide
theorem test_decode_seImm : decodeWord 0b0011_0011_0001_0010 = .ok (.seImm 0x3 0x12) := by decide
theorem test_decode_sneImm : decodeWord 0b0100_0011_0001_0010 = .ok (.sneImm 0x3 0x12) := by decide
theorem test_decode_seReg : decodeWord 0b0101_0001_0010_0000 = .ok (.seReg 0x1 0x2) := by decide
theorem test_decode_ldImm : decodeWord 0b0110_1010_0101_1111 = .ok (.ldImm 0xA 0x5F) := by decide
theorem test_decode_addImm : decodeWord 0b0111_0000_0000_0010 = .ok (.addImm 0x0 0x02) := by decide
theorem test_decode_ldReg : decodeWord 0b1000_0001_0010_0000 = .ok (.ldReg 0x1 0x2) := by decide
theorem test_decode_orReg : decodeWord 0b1000_0001_0010_0001 = .ok (.orReg 0x1 0x2) := by decide
theorem test_decode_andReg : decodeWord 0b1000_0001_0010_0010 = .ok (.andReg 0x1 0x2) := by decide
theorem test_decode_xorReg : decodeWord 0b1000_0001_0010_0011 = .ok (.xorReg 0x1 0x2) := by decide
theorem test_decode_addReg : decodeWord 0b1000_0001_0010_0100 = .ok (.addReg 0x1 0x2) := by decide
theorem test_decode_sub : decodeWord 0b1000_0001_0010_0101 = .ok (.sub 0x1 0x2) := by decide
theorem test_decode_shr : decodeWord 0b1000_0001_0010_0110 = .ok (.shr 0x1 0x2) := by decide
theorem test_decode_subn : decodeWord 0b1000_0001_0010_0111 = .ok (.subn 0x1 0x2) := by decide
theorem test_decode_shl : decodeWord 0b1000_0001_0010_1110 = .ok (.shl 0x1 0x2) := by decide
theorem test_decode_sneReg : decodeWord 0b1001_0001_0010_0000 = .ok (.sneReg 0x1 0x2) := by decide
theorem test_decode_ldI : decodeWord 0b1010_0001_0010_0011 = .ok (.ldI 0x123) := by decide
theorem test_decode_jpV0 : decodeWord 0b1011_0011_0000_0000 = .ok (.jpV0 0x300) := by decide
theorem test_decode_rnd : decodeWord 0b1100_0011_0000_1111 = .ok (.rnd 0x3 0x0F) := by decide
theorem test_decode_drw : decodeWord 0b1101_0100_0111_0101 = .ok (.drw 0x4 0x7 0x5) := by decide
theorem test_decode_skp : decodeWord 0b1110_0010_1001_1110 = .ok (.skp 0x2) := by decide
theorem test_decode_sknp : decodeWord 0b1110_0010_1010_0001 = .ok (.sknp 0x2) := by decide
theorem test_decode_ldVxDt : decodeWord 0b1111_0011_0000_0111 = .ok (.ldVxDt 0x3) := by decide
theorem test_decode_ldVxK : decodeWord 0b1111_0100_0000_1010 = .ok (.ldVxK 0x4) := by decide
theorem test_decode_ldDtVx : decodeWord 0b1111_0001_0001_0101 = .ok (.ldDtVx 0x1) := by decide
theorem test_decode_ldStVx : decodeWord 0b1111_0001_0001_1000 = .ok (.ldStVx 0x1) := by decide
theorem test_decode_addIVx : decodeWord 0b1111_0010_0001_1110 = .ok (.addIVx 0x2) := by decide
theorem test_decode_ldFVx : decodeWord 0b1111_0101_0010_1001 = .ok (.ldFVx 0x5) := by decide
theorem test_decode_ldBVx : decodeWord 0b1111_0011_0011_0011 = .ok (.ldBVx 0x3) := by decide
theorem test_decode_ldMemVx : decodeWord 0b1111_0010_0101_0101 = .ok (.ldMemVx 0x2) := by decide
theorem test_decode_ldVxMem : decodeWord 0b1111_0010_0110_0101 = .ok (.ldVxMem 0x2) := by decide

/-- Words at the borders of R80's five classes. -/
theorem test_decode_unknown :
    decodeWord 0x5001 = .error .unknownFamily5 ∧ decodeWord 0x5FFF = .error .unknownFamily5 ∧
    decodeWord 0x8128 = .error .unknownFamily8 ∧ decodeWord 0x812D = .error .unknownFamily8 ∧
    decodeWord 0x812F = .error .unknownFamily8 ∧ decodeWord 0x9121 = .error .unknownFamily9 ∧
    decodeWord 0xE09F = .error .unknownFamilyE ∧ decodeWord 0xE2A2 = .error .unknownFamilyE ∧
    decodeWord 0xF000 = .error .unknownFamilyF ∧ decodeWord 0xF0FF = .error .unknownFamilyF := by decide

/-- The bytes as memory holds them, the high byte first (R50), and a truncated word. -/
theorem test_decode_bytes :
    decode [0x60, 0x05, 0x70] = .ok (.ldImm 0x0 0x05, [0x70]) ∧ decode [0x60] = .error .truncated := by decide

theorem test_decode_table_word : decodeTableWord 16 0x6005 = some (.ldImm 0x0 0x05) ∧ decodeTableWord 16 0x5001 = none := by decide

/-! ## One step -/

/-- The vectors' start state (95_test_vectors): reset, RUNNING true, TRACE_ENABLED false. -/
def base : State := { State.reset with running := true, traceEnabled := false }

/-- The word at PC. -/
def placed (s : State) (w : Word) : State := s.storeBytes s.pc.toNat [highByte w, lowByte w]

/-- One step with the word at PC, and a check of the next state. -/
def after (s : State) (w : Word) (p : State → Bool) : Bool :=
  match step (placed s w) with
  | .next t => p t
  | _ => false

/-- One step as the schedule has it, and a check of the next state. -/
def stepped (s : State) (p : State → Bool) : Bool :=
  match step s with
  | .next t => p t
  | _ => false

/-- The one FaultReport of a state that faulted, with its record. -/
def faulted (t : State) (k : FaultKind) (a w : Word) : Bool :=
  t.fault == some ⟨k, a, w⟩ && t.pc == a && t.history == [.faultReport k a w]

/-- Nothing but PC changed. -/
def onlyPc (s : State) (w : Word) (t : State) (a : Word) : Bool := t == { placed s w with pc := a }

/-- Byte `b` at address `a`. -/
def poke (s : State) (a : Nat) (bs : List Byte) : State := s.storeBytes a bs

/-- Pixel (px, py) as a row-major index (R36). -/
def px (t : State) (x y : Nat) : Bool := fbPixel t.fb (y * 64 + x)

/-- V-FL-1, V-FL-3 -/
theorem test_cls_clears : after (base.setFb ((Vector.replicate 32 0).set 31 0x8000000000000020)) 0x05E0 (fun t => t.fb == Vector.replicate 32 0 && t.pc == 0x202 && t.history == [.framebufferUpdate (Vector.replicate 32 0)]) = true := by decide
/-- V-FL-7 -/
theorem test_ret_pops : after { base with pc := 0x300, sp := 2, stack := (base.stack.set 0 0x202).set 1 0x1001 } 0x00EE (fun t => t.pc == 0x1001 && t.sp == 1 && t.stack[1] == 0x1001) = true := by decide
/-- V-FL-6 -/
theorem test_ret_underflow : after (base.setPc 0x300) 0x00EE (fun t => faulted t .stackUnderflow 0x300 0x00EE && t.sp == 0) = true := by decide
/-- V-FL-8 -/
theorem test_sys_does_nothing : after base 0x0123 (fun t => onlyPc base 0x0123 t 0x202) = true := by decide
/-- V-FL-11 -/
theorem test_jp_odd : after base 0x1201 (fun t => onlyPc base 0x1201 t 0x201) = true := by decide
/-- V-FL-14 -/
theorem test_call_last_level : after { base with sp := 15 } 0x2300 (fun t => t.pc == 0x300 && t.sp == 16 && t.stack[15] == 0x202 && t.stack[14] == 0) = true := by decide
/-- V-FL-15 -/
theorem test_call_overflow : after { base with sp := 16 } 0x2300 (fun t => faulted t .stackOverflow 0x200 0x2300 && t.sp == 16 && t.stack == base.stack) = true := by decide
/-- V-FL-18 -/
theorem test_se_imm_skips : after ((base.setPc 0xFFC).setV 3 0x12) 0x3312 (fun t => t.pc == 0x1000 && t.fault == none) = true := by decide
/-- V-FL-17 -/
theorem test_se_imm_stays : after (base.setV 3 0x13) 0x3312 (fun t => t.pc == 0x202) = true := by decide
/-- V-FL-19 -/
theorem test_sne_imm_stays : after (base.setV 3 0x12) 0x4312 (fun t => t.pc == 0x202) = true := by decide
/-- V-FL-20 -/
theorem test_sne_imm_skips : after base 0x4312 (fun t => t.pc == 0x204) = true := by decide
/-- V-FL-21 -/
theorem test_se_reg_skips : after ((base.setV 1 7).setV 2 7) 0x5120 (fun t => t.pc == 0x204) = true := by decide
/-- V-FL-22 -/
theorem test_se_reg_stays : after ((base.setV 1 7).setV 2 8) 0x5120 (fun t => t.pc == 0x202) = true := by decide
/-- V-FL-25 -/
theorem test_sne_reg_skips : after ((base.setV 1 7).setV 2 8) 0x9120 (fun t => t.pc == 0x204) = true := by decide
/-- V-FL-26 -/
theorem test_sne_reg_stays : after ((base.setV 1 7).setV 2 7) 0x9120 (fun t => t.pc == 0x202) = true := by decide
/-- V-FL-24 and W4 -/
theorem test_unknown_family5 : after ((base.setV 1 7).setV 2 7) 0x5121 (fun t => onlyPc ((base.setV 1 7).setV 2 7) 0x5121 t 0x202) = true := by decide
/-- V-ALU-1 -/
theorem test_ld_imm : after base 0x6A5F (fun t => t.getV 0xA == 0x5F && t.pc == 0x202) = true := by decide
/-- V-ALU-3 -/
theorem test_add_imm_wraps : after ((base.setV 0 0xFF).setV 0xF 0x33) 0x7002 (fun t => t.getV 0 == 0x01 && t.getV 0xF == 0x33) = true := by decide
/-- V-ALU-5 -/
theorem test_ld_reg : after (base.setV 2 0x9A) 0x8120 (fun t => t.getV 1 == 0x9A && t.getV 2 == 0x9A) = true := by decide
/-- V-ALU-6 -/
theorem test_or : after (((base.setV 1 0xF0).setV 2 0x0F).setV 0xF 0x55) 0x8121 (fun t => t.getV 1 == 0xFF && t.getV 0xF == 0x55) = true := by decide
/-- V-ALU-7 -/
theorem test_and : after ((base.setV 1 0xF0).setV 2 0x3C) 0x8122 (fun t => t.getV 1 == 0x30 && t.getV 0xF == 0) = true := by decide
/-- V-ALU-8 -/
theorem test_xor : after ((base.setV 1 0xF0).setV 2 0x3C) 0x8123 (fun t => t.getV 1 == 0xCC && t.getV 0xF == 0) = true := by decide
/-- V-ALU-15: y = F reads the old VF -/
theorem test_add_reg_carry : after ((base.setV 1 0x10).setV 0xF 0xF0) 0x81F4 (fun t => t.getV 1 == 0x00 && t.getV 0xF == 1) = true := by decide
/-- V-ALU-14 -/
theorem test_add_reg_result_wins : after ((base.setV 1 0x20).setV 0xF 0x10) 0x8F14 (fun t => t.getV 0xF == 0x30) = true := by decide
/-- V-ALU-19 -/
theorem test_sub_equal : after ((base.setV 1 5).setV 2 5) 0x8125 (fun t => t.getV 1 == 0x00 && t.getV 0xF == 0) = true := by decide
/-- V-ALU-18 -/
theorem test_sub_borrow : after (((base.setV 1 0x03).setV 2 0x0A).setV 0xF 9) 0x8125 (fun t => t.getV 1 == 0xF9 && t.getV 0xF == 0) = true := by decide
/-- V-ALU-23 -/
theorem test_shr_source : after ((base.setV 1 0x80).setV 2 0x77) 0x8126 (fun t => t.getV 1 == 0x40 && t.getV 0xF == 0 && t.getV 2 == 0x77) = true := by decide
/-- V-ALU-22 -/
theorem test_shr_flag : after (base.setV 1 0x05) 0x8106 (fun t => t.getV 1 == 0x02 && t.getV 0xF == 1) = true := by decide
/-- V-ALU-25 -/
theorem test_subn : after ((base.setV 1 0x03).setV 2 0x0A) 0x8127 (fun t => t.getV 1 == 0x07 && t.getV 0xF == 1) = true := by decide
/-- V-ALU-26 -/
theorem test_subn_borrow : after (((base.setV 1 0x0A).setV 2 0x03).setV 0xF 9) 0x8127 (fun t => t.getV 1 == 0xF9 && t.getV 0xF == 0) = true := by decide
/-- V-ALU-28 -/
theorem test_shl : after (base.setV 1 0x81) 0x810E (fun t => t.getV 1 == 0x02 && t.getV 0xF == 1) = true := by decide
/-- V-ALU-30 -/
theorem test_shl_result_wins : after (base.setV 0xF 0x80) 0x8F0E (fun t => t.getV 0xF == 0x00) = true := by decide
/-- V-ID-1 -/
theorem test_ld_i : after base 0xA123 (fun t => t.i == 0x123 && t.pc == 0x202) = true := by decide
/-- V-ID-4 -/
theorem test_jp_v0 : after ((base.setV 0 0xFF).setV 3 9) 0xBFFF (fun t => t.pc == 0x10FE && t.fault == none) = true := by decide
/-- V-ID-6: any draw -/
theorem test_rnd_masked : ∃ t, exec (.rnd 0x3 0x00) (base.setV 3 0x55) = .next t ∧ t.getV 3 = 0x00 ∧ t.draws = 1 :=
  ⟨_, rfl, by simp [State.getV], rfl⟩
/-- V-ID-8 and W5: the pixels of glyph 0 in row 1, and one update; W6: the corners of a sprite that wraps -/
theorem test_drw_draws :
    after (base.setI 0x050) 0xD015 (fun t => px t 0 1 && !px t 1 1 && !px t 2 1 && px t 3 1 && !px t 4 1 && t.getV 0xF == 0 &&
      t.history == [.framebufferUpdate t.fb]) = true ∧
    after (poke (((base.setV 0 60).setV 1 30).setI 0x300) 0x300 [0xFF, 0xFF, 0xFF, 0xFF]) 0xD014 (fun t => px t 60 30 && px t 3 31 &&
      px t 63 0 && px t 0 1 && !px t 59 30 && !px t 4 0 && !px t 60 29 && !px t 60 2 && t.getV 0xF == 0) = true := by decide
/-- V-ID-12 -/
theorem test_drw_collision : after ((poke (base.setI 0x300) 0x300 [0xC0]).setFb ((Vector.replicate 32 0).set 0 0x2)) 0xD011 (fun t => px t 0 0 && !px t 1 0 && t.getV 0xF == 1) = true := by decide
/-- V-KT-1 -/
theorem test_skp : after { (base.setV 2 5) with key := base.key.set 5 true } 0xE29E (fun t => t.pc == 0x204) = true := by decide
/-- V-KT-6 -/
theorem test_skp_no_key : after (base.setV 2 16) 0xE29E (fun t => faulted t .outOfBounds 0x200 0xE29E) = true := by decide
/-- V-KT-4 -/
theorem test_sknp_up : after (base.setV 2 5) 0xE2A1 (fun t => t.pc == 0x204) = true := by decide
/-- V-KT-5 -/
theorem test_sknp_down : after { (base.setV 2 5) with key := base.key.set 5 true } 0xE2A1 (fun t => t.pc == 0x202) = true := by decide
/-- V-KT-8 -/
theorem test_ld_vx_dt : after (base.setDt 0x3C) 0xF307 (fun t => t.getV 3 == 0x3C && t.dt == 0x3C) = true := by decide
/-- V-KT-9 -/
theorem test_ld_vx_k_waits : after (base.setPc 0x300) 0xF40A (fun t => t == placed (base.setPc 0x300) 0xF40A) = true := by decide
/-- V-KT-10 -/
theorem test_ld_vx_k_takes : after ((base.setPc 0x300).setLatch (some 0xB)) 0xF40A (fun t => t.getV 4 == 0x0B && t.latch == none && t.pc == 0x302) = true := by decide
/-- V-KT-12 -/
theorem test_ld_dt_vx : after (base.setV 1 0x3C) 0xF115 (fun t => t.dt == 0x3C && t.st == 0) = true := by decide
/-- V-KT-13 -/
theorem test_ld_st_vx : after (base.setV 1 3) 0xF118 (fun t => t.st == 3 && t.dt == 0 && t.history == []) = true := by decide
/-- V-KT-15 -/
theorem test_add_i_wraps : after ((base.setI 0xFFFF).setV 2 1) 0xF21E (fun t => t.i == 0x0000 && t.getV 0xF == 0) = true := by decide
/-- V-KT-16 -/
theorem test_add_i_no_flag : after (((base.setI 0x0FFF).setV 2 1).setV 0xF 9) 0xF21E (fun t => t.i == 0x1000 && t.getV 0xF == 9) = true := by decide
/-- V-KT-17 -/
theorem test_ld_f : after (base.setV 5 0x0A) 0xF529 (fun t => t.i == 0x082) = true := by decide
/-- V-KT-19 -/
theorem test_ld_f_unmasked : after (base.setV 5 0xFF) 0xF529 (fun t => t.i == 0x54B) = true := by decide
/-- V-KT-20 and W1 -/
theorem test_ld_b : after ((base.setI 0x300).setV 3 157) 0xF333 (fun t => t.readByte 0x300 == 1 && t.readByte 0x301 == 5 && t.readByte 0x302 == 7 && t.i == 0x300) = true := by decide
/-- V-KT-24 -/
theorem test_ld_b_out_of_bounds : after ((base.setI 0xFFE).setV 3 1) 0xF333 (fun t => faulted t .outOfBounds 0x200 0xF333 && t.mem == (placed base 0xF333).mem) = true := by decide
/-- V-KT-25 -/
theorem test_ld_mem_vx : after (((((base.setI 0x300).setV 0 1).setV 1 2).setV 2 3).setV 3 4) 0xF255 (fun t => t.readByte 0x300 == 1 && t.readByte 0x302 == 3 && t.readByte 0x303 == 0 && t.i == 0x300) = true := by decide
/-- V-KT-27 -/
theorem test_ld_mem_vx_out_of_bounds : after ((base.setI 0xFFF).setV 0 7) 0xF155 (fun t => faulted t .outOfBounds 0x200 0xF155 && t.mem == (placed base 0xF155).mem) = true := by decide
/-- V-KT-29 -/
theorem test_ld_vx_mem : after ((poke (base.setI 0x300) 0x300 [9, 8, 7, 6]).setV 3 0x44) 0xF265 (fun t => t.getV 0 == 9 && t.getV 2 == 7 && t.getV 3 == 0x44 && t.i == 0x300) = true := by decide
/-- V-KT-31 -/
theorem test_ld_vx_mem_out_of_bounds : after ((base.setI 0xFF1).setV 3 0x44) 0xFF65 (fun t => faulted t .outOfBounds 0x200 0xFF65 && t.getV 3 == 0x44) = true := by decide

/-! ## The cycle, the timers and the host (95_test_vectors 2.5 to 2.7) -/

/-- V-FE-1: the last fetch that fits. -/
theorem test_fetch_last : stepped (base.setPc 0xFFE) (fun t => t.pc == 0x1000 && t.fault == none) = true := by decide
/-- V-FE-4: a fetch at an odd address. -/
theorem test_fetch_odd :
    stepped (poke (base.setPc 0x201) 0x201 [0x60, 0x7F]) (fun t => t.getV 0 == 0x7F && t.pc == 0x203) = true := by decide
/-- V-FE-3: the fetch past the end. -/
theorem test_fetch_fault : stepped (base.setPc 0x1001) (fun t => faulted t .outOfBounds 0x1001 0) = true := by decide
/-- V-FE-8, but for the line's contents, which are free: one event, one time stamp. -/
theorem test_trace_on :
    after { base with traceEnabled := true } 0x6005 (fun t => t.getV 0 == 5 && t.history.length == 1 && t.stamps == 1) = true := by
  decide
/-- V-FE-9: a step that faults emits no trace line. -/
theorem test_trace_not_on_fault :
    after { base with traceEnabled := true, sp := 16 } 0x2300 (fun t => faulted t .stackOverflow 0x200 0x2300) = true := by decide
/-- V-FE-6, V-TT-3: a timer tick while a fault stands. -/
theorem test_timer_under_fault :
    stepped { base with fault := some ⟨.stackUnderflow, 0x200, 0x00EE⟩, dt := 2, st := 1, schedule := [.timerTick] }
      (fun t => t.dt == 1 && t.st == 0 && t.history == [.audioTrigger]) = true := by decide
/-- V-TT-1: timers at 0 stay there. -/
theorem test_timer_at_zero :
    stepped { base with schedule := [.timerTick] } (fun t => t == base) = true := by decide
/-- V-HO-1: the load of a ROM (here one of three bytes). -/
theorem test_load_rom :
    stepped { base with sp := 3, schedule := [.loadRom [0x12, 0x00, 0x77]] }
      (fun t => t.readByte 0x200 == 0x12 && t.readByte 0x202 == 0x77 && t.sp == 0 && t.pc == 0x200 && t.running && t.history == []) =
      true := by decide
/-- V-HO-6, V-HO-7: a press latches, a release leaves the latch. -/
theorem test_keys :
    stepped { base with schedule := [.setKey 3] } (fun t => t.key[3] && t.latch == some 3) = true ∧
    stepped { base with key := base.key.set 3 true, latch := some 3, schedule := [.clearKey 3] }
      (fun t => !t.key[3] && t.latch == some 3) = true := by decide
/-- A table row's word placed for the next step is the one that runs (log entry 17). -/
theorem test_with_fetch_word :
    stepped (State.reset.withFetchWord 16 0x6005) (fun t => t.getV 0 == 5 && t.pc == 0x202) = true := by decide

/-! ## Witnesses: concrete states and operands that meet each statement's hypotheses -/

theorem test_witness_DecodeOfEncodeIsIdentity : WellFormed (.sys 0xFFF) ∧ WellFormed (.ldVxMem 0xF) := by decide
theorem test_witness_EncodeOfDecodeIsIdentity : decodeWord 0x0FEE = .ok (.ret 0xF) := by decide
/-- One word for each of the five clauses, and a known word beside each. -/
theorem test_witness_UnknownWordsAreThoseListed :
    (∃ e, decodeWord 0x5FF1 = .error e) ∧ (∃ e, decodeWord 0x8FF8 = .error e) ∧ (∃ e, decodeWord 0x900F = .error e) ∧
    (∃ e, decodeWord 0xE000 = .error e) ∧ (∃ e, decodeWord 0xFF66 = .error e) ∧
    (∃ i, decodeWord 0x5FF0 = .ok i) ∧ (∃ i, decodeWord 0x8FFE = .ok i) ∧ (∃ i, decodeWord 0x9000 = .ok i) ∧
    (∃ i, decodeWord 0xEF9E = .ok i) ∧ (∃ i, decodeWord 0xFF65 = .ok i) :=
  ⟨⟨_, rfl⟩, ⟨_, rfl⟩, ⟨_, rfl⟩, ⟨_, rfl⟩, ⟨_, rfl⟩, ⟨_, rfl⟩, ⟨_, rfl⟩, ⟨_, rfl⟩, ⟨_, rfl⟩, ⟨_, rfl⟩⟩
/-- At the last PC that can fetch. -/
theorem test_witness_StepRunsTheDecodedInstruction :
    let s := placed (base.setPc 0xFFE) 0x6005
    s.nextAgent = .cpuTick ∧ s.running = true ∧ s.fault = none ∧ s.pc.toNat ≤ 0xFFE ∧
      decodeWord (s.readByte s.pc.toNat ++ s.readByte (s.pc.toNat + 1)) = .ok (.ldImm 0x0 0x05) := by decide
theorem test_witness_FetchBeyondMemoryFaults :
    let s := base.setPc 0xFFF
    s.running = true ∧ s.fault = none ∧ 0xFFF ≤ s.pc.toNat := by decide
theorem test_witness_UnknownWordIsNoOperation :
    let s := placed (base.setPc 0xFFE) 0x5001
    s.running = true ∧ s.fault = none ∧ s.pc.toNat ≤ 0xFFE ∧
      decodeWord (s.readByte s.pc.toNat ++ s.readByte (s.pc.toNat + 1)) = .error .unknownFamily5 := by decide
theorem test_witness_HaltedActivitiesLeaveTheState :
    State.reset.running = false ∧ ({ base with fault := some ⟨.outOfBounds, 0xFFF, 0⟩ } : State).fault ≠ none := by decide
theorem test_witness_StepFollowsTheSchedule :
    ({ base with schedule := [.timerTick, .stop] } : State).schedule = .timerTick :: [.stop] ∧ base.schedule = [] := by decide
/-- RET: no call, one call and sixteen calls active. -/
theorem test_witness_RetPopsOrUnderflows :
    base.sp.val = 0 ∧ ({ base with sp := 1 } : State).sp.val = 0 + 1 ∧ ({ base with sp := 16 } : State).sp.val = 15 + 1 := by decide
/-- SYS: low bytes beside E0 and EE. -/
theorem test_witness_SysIsNoOperation :
    (0x0E1 : Addr12).toNat % 256 ≠ 0xE0 ∧ (0x0E1 : Addr12).toNat % 256 ≠ 0xEE ∧
    (0xFED : Addr12).toNat % 256 ≠ 0xE0 ∧ (0xFED : Addr12).toNat % 256 ≠ 0xEE := by decide
/-- CALL: sixteen calls, none and fifteen active. -/
theorem test_witness_CallPushesOrOverflows :
    ({ base with sp := 16 } : State).sp.val = 16 ∧ base.sp.val = 0 ∧ ({ base with sp := 15 } : State).sp.val = 15 := by decide
/-- The clauses of the register results: a register that is not the destination, and one that is neither it nor VF. -/
theorem test_witness_register_clauses :
    (0x1 : Nibble) ≠ 0x0 ∧ (0x0 : Nibble) ≠ 0xF ∧ (0xE : Nibble) ≠ 0x0 ∧ (0xE : Nibble) ≠ 0xF := by decide
/-- RND: the masked bits of nn = 0F, at both ends. -/
theorem test_witness_RandomIsMasked : (0x0F : Byte).getLsbD 4 = false ∧ (0x0F : Byte).getLsbD 7 = false := by decide
/-- DRW runs with n = 0 and I = FFFF, and with rows that end at FFF; it faults one row further. -/
theorem test_witness_DrawXorsTheSprite_ranges :
    ((0x0 : Nibble).toNat = 0 ∨ (base.setI 0xFFFF).i.toNat + (0x0 : Nibble).toNat - 1 ≤ 0xFFF) ∧
    ((0x1 : Nibble).toNat = 0 ∨ (base.setI 0xFFF).i.toNat + (0x1 : Nibble).toNat - 1 ≤ 0xFFF) ∧
    ((0xF : Nibble).toNat = 0 ∨ (base.setI 0xFF1).i.toNat + (0xF : Nibble).toNat - 1 ≤ 0xFFF) ∧
    ((0x2 : Nibble).toNat ≠ 0 ∧ 0xFFF < (base.setI 0xFFF).i.toNat + (0x2 : Nibble).toNat - 1) ∧
    ((0xF : Nibble).toNat ≠ 0 ∧ 0xFFF < (base.setI 0xFF2).i.toNat + (0xF : Nibble).toNat - 1) := by decide
/-- A sprite of one row, its left column set, at I = 300. -/
def oneDot : State := poke (base.setI 0x300) 0x300 [0x80]
/-- Its set bit lands on pixel (63, 31) from there, and wraps to (0, 0) from one further. -/
theorem test_witness_DrawXorsTheSprite_sets : SpriteSets oneDot 63 31 1 63 31 ∧ SpriteSets oneDot 64 32 1 0 0 :=
  ⟨⟨0, 0, by decide⟩, ⟨0, 0, by decide⟩⟩
/-- No bit lands beside it, nor anywhere with n = 0. -/
theorem test_witness_DrawXorsTheSprite_sets_not : ¬SpriteSets oneDot 0 0 1 0 1 ∧ ¬SpriteSets oneDot 0 0 0 0 0 := by
  constructor
  · rintro ⟨r, c, hr, -, -, -, hy⟩
    omega
  · rintro ⟨r, -, hr, -⟩
    omega
/-- A lit pixel under the set bit: a collision; on a clear screen, none. -/
theorem test_witness_DrawXorsTheSprite_collision :
    (∃ px py, SpriteSets { oneDot with fb := oneDot.fb.set 0 1 } 0 0 1 px py ∧ fbPixel (oneDot.fb.set 0 1) (py * 64 + px) = true) ∧
    ¬∃ px py, SpriteSets oneDot 0 0 1 px py ∧ fbPixel oneDot.fb (py * 64 + px) = true := by
  refine ⟨⟨0, 0, ⟨0, 0, by decide⟩, by decide⟩, ?_⟩
  rintro ⟨px, py, -, h⟩
  revert h
  simp [oneDot, poke, base, State.reset, fbPixel, pixelAt, State.storeBytes, State.setI]
/-- A draw at coordinates that are not VF, with both ranges of n. -/
theorem test_witness_DrawTwiceRestoresTheScreen :
    ((0x1 : Nibble).toNat = 0 ∨ oneDot.i.toNat + (0x1 : Nibble).toNat - 1 ≤ 0xFFF) ∧
    (∃ t, exec (.drw 0x0 0x1 0x1) oneDot = .next t ∧ t.getV 0x0 = oneDot.getV 0x0 ∧ t.getV 0x1 = oneDot.getV 0x1) ∧
    (∃ t, exec (.drw 0x0 0x1 0x0) (base.setI 0xFFFF) = .next t ∧ t.getV 0x0 = (base.setI 0xFFFF).getV 0x0 ∧
      t.getV 0x1 = (base.setI 0xFFFF).getV 0x1) :=
  ⟨by decide, ⟨_, rfl, by decide, by decide⟩, ⟨_, rfl, by decide, by decide⟩⟩
/-- Key codes 0 and 15, and 16 and 255. -/
theorem test_witness_KeySkips :
    (base.getV 0x0).toNat = 0 ∧ ((base.setV 0x0 15).getV 0x0).toNat = 15 ∧
    15 < ((base.setV 0x0 16).getV 0x0).toNat ∧ 15 < ((base.setV 0x0 255).getV 0x0).toNat := by decide
/-- An empty latch, and the keys 0 and F. -/
theorem test_witness_WaitForKey :
    base.latch = none ∧ (base.setLatch (some 0)).latch = some 0 ∧ (base.setLatch (some 0xF)).latch = some 0xF := by decide
/-- The last I that fits three digits, and the first that does not. -/
theorem test_witness_StoreDecimalDigits :
    Memory.wf (base.setI 0xFFD).mem = true ∧ (base.setI 0xFFD).i.toNat + 2 ≤ 0xFFF ∧ 0xFFF < (base.setI 0xFFE).i.toNat + 2 ∧
    (0xFFC < (base.setI 0xFFD).i.toNat ∨ (base.setI 0xFFD).i.toNat + 2 < 0xFFC) := by decide
/-- Blocks of 1 and 16 registers that end at FFF, and one further. -/
theorem test_witness_StoreRegisterBlock :
    Memory.wf (base.setI 0xFFF).mem = true ∧ (base.setI 0xFFF).i.toNat + (0x0 : Nibble).toNat ≤ 0xFFF ∧
    (base.setI 0xFF0).i.toNat + (0xF : Nibble).toNat ≤ 0xFFF ∧ 0xFFF < (base.setI 0xFF1).i.toNat + (0xF : Nibble).toNat ∧
    0xFFF < (base.setI 0x1000).i.toNat + (0x0 : Nibble).toNat ∧ (0x0 : Nibble).toNat ≤ (0x0 : Nibble).toNat := by decide
/-- The same blocks loaded, and a register above the last. -/
theorem test_witness_LoadRegisterBlock :
    (base.setI 0xFFF).i.toNat + (0x0 : Nibble).toNat ≤ 0xFFF ∧ (base.setI 0xFF0).i.toNat + (0xF : Nibble).toNat ≤ 0xFFF ∧
    0xFFF < (base.setI 0xFF1).i.toNat + (0xF : Nibble).toNat ∧ (0xE : Nibble).toNat < (0xF : Nibble).toNat := by decide
/-- A store at PC itself, at the top of memory: PC = I = FFE, x = 1. -/
theorem test_witness_StoreIsSeenByTheNextFetch :
    let s := (base.setI 0xFFE).setPc 0xFFE
    Memory.wf s.mem = true ∧ 1 ≤ (0x1 : Nibble).toNat ∧ s.i.toNat + (0x1 : Nibble).toNat ≤ 0xFFF ∧
      ∃ t, exec (.ldMemVx 0x1) s = .next t ∧ t.pc = s.i :=
  ⟨by decide, by decide, by decide, ⟨_, rfl, by decide⟩⟩
/-- A register that is not written, by an instruction that writes two. -/
theorem test_witness_RegistersNotNamedAreUnchanged :
    (∃ t, exec (.addReg 0x1 0x2) base = .next t) ∧ mayWriteV (.addReg 0x1 0x2) 0x2 = false ∧
    mayWriteV (.ldVxMem 0x2) 0x3 = false := ⟨⟨_, rfl⟩, by decide, by decide⟩
/-- The bytes beside three stored ones, and a form that stores nothing. -/
theorem test_witness_MemoryNotStoredToIsUnchanged :
    Memory.wf (base.setI 0x300).mem = true ∧ (∃ t, exec (.ldBVx 0x3) (base.setI 0x300) = .next t) ∧
    (0x2FF < (base.setI 0x300).i.toNat ∨ (base.setI 0x300).i.toNat + storeLength (.ldBVx 0x3) ≤ 0x2FF) ∧
    (0x303 < (base.setI 0x300).i.toNat ∨ (base.setI 0x300).i.toNat + storeLength (.ldBVx 0x3) ≤ 0x303) ∧
    (0x000 < base.i.toNat ∨ base.i.toNat + storeLength (.jp 0x200) ≤ 0x000) := ⟨by decide, ⟨_, rfl⟩, by decide, by decide, by decide⟩
/-- One instruction outside every clause's list. -/
theorem test_witness_OtherStateNotNamedIsUnchanged :
    (∃ t, exec (.jp 0x200) base = .next t) ∧ mayWriteI (.jp 0x200) = false ∧ mayWriteStack (.jp 0x200) = false ∧
    mayWriteFb (.jp 0x200) = false ∧ mayWriteDt (.jp 0x200) = false ∧ mayWriteSt (.jp 0x200) = false ∧
    mayWriteLatch (.jp 0x200) = false ∧ mayDraw (.jp 0x200) = false := by
  refine ⟨⟨_, rfl⟩, ?_⟩
  decide
theorem test_witness_InstructionsFaultExactlyAsListed : base.fault = none ∧ faultOf base (.ret 0x0) = some .stackUnderflow := by decide
theorem test_witness_InstructionFaultsArePrecise :
    base.fault = none ∧ ∃ t, exec (.ret 0x0) base = .next t ∧ t.fault ≠ none := ⟨by decide, ⟨_, rfl, by decide⟩⟩
theorem test_witness_FaultingStepChangesOnlyFault :
    let s := placed base 0x00EE
    s.nextAgent = .cpuTick ∧ s.fault = none ∧ ∃ t, step s = .next t ∧ t.fault = some ⟨.stackUnderflow, 0x200, 0x00EE⟩ :=
  ⟨by decide, by decide, ⟨_, rfl, by decide⟩⟩
/-- A standing fault, and a resume. -/
def broken : State :=
  { base with
    fault := some ⟨.stackUnderflow, 0x200, 0x00EE⟩
    history := [.faultReport .stackUnderflow 0x200 0x00EE]
    schedule := [.resume] }
theorem test_witness_FaultIsSticky :
    broken.fault = some ⟨.stackUnderflow, 0x200, 0x00EE⟩ ∧ (∀ bytes, broken.nextAgent ≠ .loadRom bytes) ∧ ∃ t, step broken = .next t :=
  ⟨by decide, fun _ h => by simp [broken, State.nextAgent] at h, ⟨_, rfl⟩⟩
/-- Timers at 0 and above, while RUNNING. -/
theorem test_witness_TimerTickCountsDown :
    base.running = true ∧ base.st = 0 ∧ ({ base with st := 3, dt := 5 } : State).running = true := by decide
theorem test_witness_TimersDecay : ({ base with st := 3, dt := 5 } : State).running = true := by decide
/-- The longest ROM that loads, and one byte more. -/
theorem test_witness_LoadRomResetsAndLoads :
    (List.replicate 3584 (0xFF : Byte)).length ≤ 3584 ∧ 3584 < (List.replicate 3585 (0xFF : Byte)).length ∧
    (0x1FF < 0x200 ∨ 0x200 + 1 ≤ 0x1FF) := ⟨by rw [List.length_replicate], by rw [List.length_replicate]; decide, by decide⟩
/-- Keys 0 and 15, and the first code outside the contract. -/
theorem test_witness_HostKeyCalls : 0 < 16 ∧ 15 < 16 ∧ 0 ≠ 15 ∧ 15 < 16 := by decide
theorem test_witness_OnlyTheHostPressesKeys :
    (∃ t, step base = .next t) ∧ base.nextAgent = .cpuTick ∧
    (∃ t, step { base with schedule := [.timerTick] } = .next t) ∧
    ({ base with schedule := [.timerTick] } : State).nextAgent = .timerTick := ⟨⟨_, rfl⟩, by decide, ⟨_, rfl⟩, by decide⟩
theorem test_witness_HistoryIsAppendedAndNeverRead : ∃ t, step { base with st := 1, schedule := [.timerTick] } = .next t := ⟨_, rfl⟩
/-- A step that draws. -/
theorem test_witness_OnlyRndDraws : ∃ t, step (placed base 0xC300) = .next t ∧ t.draws ≠ (placed base 0xC300).draws :=
  ⟨_, rfl, by decide⟩
/-- JP 200 at 200. -/
theorem test_witness_EndOfProgramIsKept :
    let s := placed base 0x1200
    s.isAtEnd = true ∧ s.running = true ∧ s.nextAgent = .cpuTick := by decide
/-- LD V0, 1; LD DT, V0; JP 204. -/
def delayRom : List Byte := [0x60, 0x01, 0xF0, 0x15, 0x12, 0x04]
/-- That ROM loaded after construction. -/
def loaded : State := { State.reset.storeBytes 0x200 delayRom with running := true }
/-- The self-jump reached, with the delay timer at d. -/
def waiting (d : Byte) : State := ((loaded.setV 0 1).setDt d).setPc 0x204
/-- The host loads the ROM, two CPU ticks set DT, then timer and CPU take turns. -/
def turns : Nat → AgentStep
  | 0 => .loadRom delayRom
  | 1 => .cpuTick
  | 2 => .cpuTick
  | n + 3 => if n % 2 = 0 then .timerTick else .cpuTick
/-- The states of that run, from State.reset on. -/
def turning : Nat → State
  | 0 => State.reset
  | 1 => loaded
  | 2 => (loaded.setV 0 1).setPc 0x202
  | 3 => waiting 1
  | _ + 4 => waiting 0
/-- The run from construction is fair, and its DT is 1 when the program has set it. -/
theorem test_witness_DelayEndsInFairRuns :
    FairRun turns turning ∧ (turning 3).dt = 1 ∧ (∀ n, 3 ≤ n → (turning n).running = true) ∧
    ∀ n, 3 ≤ n → turns n = .cpuTick → (turning (n + 1)).dt = (turning n).dt := by
  refine ⟨⟨?_, fun n _ => ⟨2 * n + 3, by omega, by simp [turns]⟩, fun n _ => ⟨2 * n + 4, by omega, ?_⟩⟩, by decide, ?_, ?_⟩
  · intro n
    match n with
    | 0 => rfl
    | 1 => rfl
    | 2 => rfl
    | 3 => rfl
    | n + 4 =>
      by_cases h : (n + 1) % 2 = 0
      · rw [turns, if_pos h]
        show agentStep .timerTick (waiting 0) = .next (waiting 0)
        rfl
      · rw [turns, if_neg h]
        show agentStep .cpuTick (waiting 0) = .next (waiting 0)
        rfl
  · show (if (2 * n + 1) % 2 = 0 then AgentStep.timerTick else AgentStep.cpuTick) = _
    rw [if_neg (by omega)]
  · intro n h
    match n, h with
    | 3, _ => rfl
    | n + 4, _ => rfl
  · intro n h hn
    match n, h with
    | 3, _ => exact absurd hn (by decide)
    | n + 4, _ => rfl
/-- No fair run goes on with CPU ticks alone while RUNNING stays true, whatever came before, a RUNNING that was false included. -/
theorem test_cpu_ticks_alone_are_unfair (run : Nat → State) (hr : ∀ n, 1 ≤ n → (run n).running = true) :
    ¬FairRun (fun n => if n = 0 then .loadRom delayRom else .cpuTick) run := by
  rintro ⟨-, ht, -⟩
  obtain ⟨m, hm, he⟩ := ht 1 hr
  simp [show m ≠ 0 by omega] at he
/-- The invariant in a state with a standing fault, and a step from it. -/
theorem test_witness_EveryStepKeepsTheInvariant : broken.Inv ∧ ∃ t, step broken = .next t :=
  ⟨⟨by decide, by refine ⟨rfl, ?_, ?_⟩ <;> decide⟩, ⟨_, rfl⟩⟩
/-- The ranges of the reset statement's clauses. -/
theorem test_witness_ResetLeavesTheseValues :
    0 < 16 ∧ 15 < 16 ∧ 2047 < 2048 ∧ 79 < 80 ∧ (0x04F < fontBase ∨ fontBase + 80 ≤ 0x04F) ∧
    (0x0A0 < fontBase ∨ fontBase + 80 ≤ 0x0A0) := by decide

end Sys2Proof.Tests
end

/-! PROOFS. What an instruction can do, said once (`Effect`), and from it the frame of every instruction (00_scope R13): the registers, the
bytes of memory and the other fields that it leaves as they were. -/

namespace Sys2Proof.Machine

/-! ## The effects of the instructions (R13) -/

/-- The answers that the execute phase of `i` can give from `s`: one constructor per shape of update. Each carries the condition on `i`
under which the spec lists that update (R24, R29 to R38, R55, R142, R201); PC, which every instruction advances, needs none. -/
inductive Effect (i : Instr) (s : State) : Result → Prop where
  /-- The fault that R201 lists (R206). -/
  | fault (k : FaultKind) (hk : faultOf s i = some k) : Effect i s (.next (s.faultAt k i))
  /-- PC and nothing else: the jumps, and a wait for a key (R164). -/
  | jump (w : Word) : Effect i s (.next (s.setPc w))
  /-- A conditional skip; SYS never skips (R102). -/
  | skip (c : Bool) : Effect i s (.next (s.skipIf c))
  /-- CALL and RET. -/
  | stack (slots : Vector Word 16) (depth : Fin 17) (w : Word) (hi : mayWriteStack i = true) :
      Effect i s (.next { s with stack := slots, sp := depth, pc := w })
  /-- One register. -/
  | reg (x : Nibble) (b : Byte) (hx : mayWriteV i x = true) : Effect i s (.next (s.setV x b))
  /-- A flag, then a result (R121). -/
  | flagAndResult (x : Nibble) (fl b : Byte) (hf : mayWriteV i regVF = true) (hx : mayWriteV i x = true) :
      Effect i s (.next (s.setFlagAndResult x fl b))
  /-- A block of registers from V0 on (R171). -/
  | regs (bs : List Byte) (hl : bs.length ≤ 16) (hr : ∀ r : Nibble, r.toNat < bs.length → mayWriteV i r = true) :
      Effect i s (.next (s.loadRegs 0 bs))
  /-- One register, from a draw (R143). -/
  | random (x : Nibble) (b : Byte) (hi : mayDraw i = true) (hx : mayWriteV i x = true) :
      Effect i s (.next (s.drawRandom.2.setV x b))
  /-- One register, from the latched key, which is consumed (R164). -/
  | latchedKey (x : Nibble) (b : Byte) (hi : mayWriteLatch i = true) (hx : mayWriteV i x = true) :
      Effect i s (.next ((s.setV x b).setLatch none))
  /-- CLS. -/
  | screen (f : Screen) (hi : mayWriteFb i = true) : Effect i s (.next (s.showScreen f))
  /-- DRW: the collision flag and the screen (R144). -/
  | draw (fl : Byte) (f : Screen) (hi : mayWriteFb i = true) (hf : mayWriteV i regVF = true) :
      Effect i s (.next ((s.setV regVF fl).showScreen f))
  /-- The index register. -/
  | index (w : Word) (hi : mayWriteI i = true) : Effect i s (.next (s.setI w))
  /-- The delay timer. -/
  | delay (b : Byte) (hi : mayWriteDt i = true) : Effect i s (.next (s.setDt b))
  /-- The sound timer. -/
  | sound (b : Byte) (hi : mayWriteSt i = true) : Effect i s (.next (s.setSt b))
  /-- Bytes from I on (R55). -/
  | store (bs : List Byte) (hl : bs.length = storeLength i) : Effect i s (.next (s.storeBytes s.i.toNat bs))

/-! ### The instructions with more than one answer -/

theorem execRet_effect (u : Nibble) (s : State) : Effect (.ret u) s (execRet u s) := by
  unfold execRet
  by_cases h : s.sp.val = 0
  · rw [s.pop_empty h]
    exact .fault _ (if_pos h)
  · rw [s.pop_of_succ (s.sp.val - 1) (by omega) (by omega)]
    exact .stack _ _ _ rfl

theorem execCall_effect (nnn : Addr12) (s : State) : Effect (.call nnn) s (execCall nnn s) := by
  unfold execCall
  by_cases h : s.sp.val = 16
  · rw [s.push_full _ h]
    exact .fault _ (if_pos h)
  · rw [s.push_of_lt _ (by omega)]
    exact .stack _ _ _ rfl

theorem execDrw_effect (x y n : Nibble) (s : State) : Effect (.drw x y n) s (execDrw x y n s) := by
  unfold execDrw
  split
  · exact .draw _ _ rfl rfl
  · next h =>
    rw [inBounds_iff] at h
    exact .fault _ (if_pos (by omega))

theorem execSkp_effect (x : Nibble) (s : State) : Effect (.skp x) s (execSkp x s) := by
  unfold execSkp
  by_cases h : 15 < (s.getV x).toNat
  · rw [keyOperand_none _ h]
    exact .fault _ (if_pos h)
  · rw [keyOperand_of_lt _ (by omega)]
    exact .skip _

theorem execSknp_effect (x : Nibble) (s : State) : Effect (.sknp x) s (execSknp x s) := by
  unfold execSknp
  by_cases h : 15 < (s.getV x).toNat
  · rw [keyOperand_none _ h]
    exact .fault _ (if_pos h)
  · rw [keyOperand_of_lt _ (by omega)]
    exact .skip _

theorem execLdVxK_effect (x : Nibble) (s : State) : Effect (.ldVxK x) s (execLdVxK x s) := by
  unfold execLdVxK
  split
  · exact .jump _
  · exact .latchedKey _ _ rfl (by simp [mayWriteV])

theorem execLdBVx_effect (x : Nibble) (s : State) : Effect (.ldBVx x) s (execLdBVx x s) := by
  unfold execLdBVx
  split
  · exact .store _ rfl
  · next h =>
    rw [inBounds_iff] at h
    exact .fault _ (if_pos (by omega))

theorem execLdMemVx_effect (x : Nibble) (s : State) : Effect (.ldMemVx x) s (execLdMemVx x s) := by
  unfold execLdMemVx
  split
  · exact .store _ (s.regBlock_length x)
  · next h =>
    rw [inBounds_iff, blockLength] at h
    exact .fault _ (if_pos (by omega))

theorem execLdVxMem_effect (x : Nibble) (s : State) : Effect (.ldVxMem x) s (execLdVxMem x s) := by
  have hx := x.isLt
  unfold execLdVxMem
  split
  · refine .regs _ (by rw [Memory.readBytes_length, blockLength]; omega) fun r hr => ?_
    rw [Memory.readBytes_length, blockLength] at hr
    exact decide_eq_true (by omega)
  · next h =>
    rw [inBounds_iff, blockLength] at h
    exact .fault _ (if_pos (by omega))

/-! ### Every instruction -/

/-- Every instruction answers, in every state, with one of its effects. -/
theorem exec_effect (i : Instr) (s : State) : Effect i s (exec i s) := by
  cases i with
  | ret u => exact execRet_effect u s
  | call nnn => exact execCall_effect nnn s
  | drw x y n => exact execDrw_effect x y n s
  | skp x => exact execSkp_effect x s
  | sknp x => exact execSknp_effect x s
  | ldVxK x => exact execLdVxK_effect x s
  | ldBVx x => exact execLdBVx_effect x s
  | ldMemVx x => exact execLdMemVx_effect x s
  | ldVxMem x => exact execLdVxMem_effect x s
  | sys nnn => exact .skip false
  | jp nnn | jpV0 nnn => exact .jump _
  | seImm x nn | sneImm x nn => exact .skip _
  | seReg x y | sneReg x y => exact .skip _
  | ldImm x nn | addImm x nn => exact .reg x _ (by simp [mayWriteV])
  | ldReg x y | orReg x y | andReg x y | xorReg x y => exact .reg x _ (by simp [mayWriteV])
  | ldVxDt x => exact .reg x _ (by simp [mayWriteV])
  | addReg x y | sub x y | shr x y | subn x y | shl x y =>
    exact .flagAndResult x _ _ (by simp [mayWriteV, regVF]) (by simp [mayWriteV])
  | rnd x nn => exact .random x _ rfl (by simp [mayWriteV])
  | cls u => exact .screen _ rfl
  | ldI nnn => exact .index _ rfl
  | addIVx x | ldFVx x => exact .index _ rfl
  | ldDtVx x => exact .delay _ rfl
  | ldStVx x => exact .sound _ rfl

/-- The effect that led to a next state. -/
theorem Effect.of_exec {i : Instr} {s t : State} (h : exec i s = .next t) : Effect i s (.next t) := h ▸ exec_effect i s

/-! ## Registers (R23, R24) -/

/-- A register that an instruction may write is not one that it may not. -/
theorem ne_of_mayWriteV {i : Instr} {x r : Nibble} (hx : mayWriteV i x = true) (hr : mayWriteV i r = false) : r ≠ x := by
  rintro rfl
  exact Bool.false_ne_true (hr.symm.trans hx)

/-- An effect keeps each register that R24 does not list as written. -/
theorem Effect.getV_eq {i : Instr} {s t : State} (h : Effect i s (.next t)) {r : Nibble} (hr : mayWriteV i r = false) :
    t.getV r = s.getV r := by
  cases h with
  | reg x b hx => exact s.getV_setV_ne x r b (ne_of_mayWriteV hx hr)
  | flagAndResult x fl b hf hx =>
    rw [State.setFlagAndResult, State.getV_setV_ne _ _ _ _ (ne_of_mayWriteV hx hr),
      State.getV_setV_ne _ _ _ _ (ne_of_mayWriteV hf hr)]
  | regs bs hl hbs =>
    have hlen : ¬r.toNat < bs.length := fun hlt => Bool.false_ne_true (hr.symm.trans (hbs r hlt))
    rw [State.getV_loadRegs _ _ _ _ (by omega), dif_neg (by omega)]
  | random x b _ hx => exact s.drawRandom.2.getV_setV_ne x r b (ne_of_mayWriteV hx hr)
  | latchedKey x b _ hx => exact s.getV_setV_ne x r b (ne_of_mayWriteV hx hr)
  | draw fl f _ hf => exact s.getV_setV_ne regVF r fl (ne_of_mayWriteV hf hr)
  | skip c => exact s.getV_congr _ (s.skipIf_v c) r
  | fault | jump | stack | screen | index | delay | sound | store => rfl

/-- Settles O40: each effect writes only registers that `mayWriteV` lists. -/
theorem registersNotNamedAreUnchanged : Obligations.RegistersNotNamedAreUnchanged := by
  intro i s t r h hr
  exact (Effect.of_exec h).getV_eq hr

/-! ## Memory (R55) -/

/-- An effect leaves memory as it is, or writes the instruction's run of bytes from I on. -/
theorem Effect.mem_cases {i : Instr} {s t : State} (h : Effect i s (.next t)) :
    t.mem = s.mem ∨ ∃ bs : List Byte, bs.length = storeLength i ∧ t.mem = Memory.writeBytes s.mem s.i.toNat bs := by
  cases h with
  | store bs hl => exact .inr ⟨bs, hl, rfl⟩
  | skip c => exact .inl (s.skipIf_mem c)
  | regs bs => exact .inl (s.loadRegs_mem 0 bs)
  | fault | jump | stack | reg | flagAndResult | random | latchedKey | screen | draw | index | delay | sound => exact .inl rfl

/-- Settles O41: a run of bytes written from I on leaves every cell outside it as it was. -/
theorem memoryNotStoredToIsUnchanged : Obligations.MemoryNotStoredToIsUnchanged := by
  intro i s t hwf h a ha
  obtain hmem | ⟨bs, hl, hmem⟩ := (Effect.of_exec h).mem_cases
  · exact s.readByte_congr t hmem a
  · rw [State.readByte, hmem, Memory.read_writeBytes_outside _ _ _ _ hwf (hl ▸ ha), State.readByte]

/-! ## The other fields (R29 to R40, R142) -/

/-- Settles O42: each effect names the one field beside V, PC, memory and the outputs that it writes. -/
theorem otherStateNotNamedIsUnchanged : Obligations.OtherStateNotNamedIsUnchanged := by
  intro i s t h
  cases Effect.of_exec h with
  | fault | jump | skip | reg | flagAndResult | regs | store => simp
  | stack slots depth w hi => simp [hi]
  | random x b hi => simp [hi, State.drawRandom]
  | latchedKey x b hi => simp [hi]
  | screen f hi => simp [hi]
  | draw fl f hi => simp [hi]
  | index w hi => simp [hi]
  | delay b hi => simp [hi]
  | sound b hi => simp [hi]

/-! ## The next step of the interleaving (R15, R228) -/

/-- Settles O9: the entry taken is the head of the schedule, and taking from an empty schedule changes nothing. -/
theorem stepFollowsTheSchedule : Obligations.StepFollowsTheSchedule := by
  refine ⟨fun s e rest h => ?_, fun s h => ?_⟩
  · rw [step_eq, s.nextAgent_cons e rest h, State.dequeue, h, List.tail_cons]
  · have hd : s.dequeue = s := by rw [State.dequeue, h, List.tail_nil, ← h]
    rw [step_eq, s.nextAgent_nil h, hd]

end Sys2Proof.Machine

/-! PROOFS. What the CPU and the timer activity leave of the machine: all of it where they have no step (10_state R40, 60_exceptions R227),
the keys always, and the key latch but for its one consumer (10_state R37, R38). The invariant at reset (70_reset R242). -/

namespace Sys2Proof.Machine

/-! ## An activity that has no step (R40, R227) -/

/-- The CPU activity has no step exactly where RUNNING is false or a fault stands (R40). -/
theorem State.cpuEnabled_eq_false_iff (s : State) : s.cpuEnabled = false ↔ s.running = false ∨ s.fault ≠ none := by
  rw [State.cpuEnabled, Bool.and_eq_false_iff, Option.isNone_eq_false_iff, Option.isSome_iff_ne_none]

theorem cpuTick_of_not_enabled (s : State) (h : s.cpuEnabled = false) : cpuTick s = .next s := by
  simp [cpuTick, h]

theorem timerTick_of_running (s : State) (h : s.running = true) : timerTick s = .next s.tickTimers := by
  simp [timerTick, h]

theorem timerTick_of_not_running (s : State) (h : s.running = false) : timerTick s = .next s := by
  simp [timerTick, h]

/-- Settles O8: neither activity is enabled, and a turn of theirs then answers the state it was given. -/
theorem haltedActivitiesLeaveTheState : Obligations.HaltedActivitiesLeaveTheState :=
  ⟨fun s h => cpuTick_of_not_enabled s (s.cpuEnabled_eq_false_iff.mpr h), timerTick_of_not_running⟩

/-! ## The keys and the latch (R37, R38, R213) -/

/-- No instruction writes a key (R37). -/
theorem exec_key {i : Instr} {s t : State} (h : exec i s = .next t) : t.key = s.key := by
  obtain ⟨-, -, -, -, -, -, -, hkey, -⟩ := otherStateNotNamedIsUnchanged i s t h
  exact hkey

/-- An effect keeps the latch, or consumes the latched key (R38, R164). -/
theorem Effect.latch_cases {i : Instr} {s t : State} (h : Effect i s (.next t)) : t.latch = s.latch ∨ t.latch = none := by
  cases h with
  | latchedKey => exact .inr rfl
  | skip c => exact .inl (s.skipIf_latch c)
  | regs bs => exact .inl (s.loadRegs_latch 0 bs)
  | fault | jump | stack | reg | flagAndResult | random | screen | draw | index | delay | sound | store => exact .inl rfl

/-- A CPU tick writes no key, and keeps the latch or empties it. -/
theorem cpuTick_key_latch {s t : State} (h : cpuTick s = .next t) : t.key = s.key ∧ (t.latch = s.latch ∨ t.latch = none) := by
  obtain ⟨-, rfl⟩ | ⟨-, -, rfl⟩ | ⟨op, e, -, -, -, rfl⟩ | ⟨op, i, u, -, -, -, hu, rfl⟩ := cpuTick_cases s t h
  · exact ⟨rfl, .inl rfl⟩
  · exact ⟨rfl, .inl rfl⟩
  · simp
  · have hkept := And.intro (exec_key hu) (Effect.of_exec hu).latch_cases
    simpa using hkept

/-- A timer tick writes neither a key nor the latch (R226). -/
theorem timerTick_key_latch {s t : State} (h : timerTick s = .next t) : t.key = s.key ∧ t.latch = s.latch := by
  cases hr : s.running with
  | true =>
    rw [timerTick_of_running s hr] at h
    cases h
    exact ⟨rfl, rfl⟩
  | false =>
    rw [timerTick_of_not_running s hr] at h
    cases h
    exact ⟨rfl, rfl⟩

/-- Settles O52: of the instructions only a key wait writes the latch, and it empties it; a timer tick writes neither. -/
theorem onlyTheHostPressesKeys : Obligations.OnlyTheHostPressesKeys := by
  intro s t h hagent
  rw [step_eq] at h
  rcases hagent with hcpu | htimer
  · rw [hcpu] at h ⊢
    obtain ⟨hkey, hlatch⟩ := cpuTick_key_latch h
    exact ⟨hkey, hlatch, nofun⟩
  · rw [htimer] at h
    obtain ⟨hkey, hlatch⟩ := timerTick_key_latch h
    exact ⟨hkey, .inl hlatch, fun _ => hlatch⟩

/-! ## The invariant at reset (R34, R41, R242) -/

/-- Memory with its reset contents, no cell listed, is canonical. -/
theorem Memory.wf_nil : Memory.wf [] = true := rfl

/-- Where no fault stands there is nothing to be precise about. -/
theorem State.faultStands_of_no_fault (s : State) (h : s.fault = none) : s.faultStands := by
  rw [State.faultStands, h]
  trivial

/-- Settles O59: reset lists no memory cell and records no fault. -/
theorem invariantHoldsAtReset : Obligations.InvariantHoldsAtReset :=
  ⟨Memory.wf_nil, State.reset.faultStands_of_no_fault rfl⟩

end Sys2Proof.Machine

/-! PROOFS. Memory and its invariant (20_memory): what every step of every agent keeps of it (R57, R206 to R208), a block store seen by the
next fetch (R65, R253), and a fetch beyond memory (R54). -/

namespace Sys2Proof.Machine

/-! ## The record of a standing fault (R206, R207) -/

/-- The invariant reads memory, the fault record, PC and SP, and asks of the port history one report: more events do no harm (R220). -/
theorem State.Inv.of_same_fields {s t : State} (h : s.Inv) (hmem : t.mem = s.mem) (hfault : t.fault = s.fault)
    (hpc : t.pc = s.pc) (hsp : t.sp = s.sp) (hhist : s.history ⊆ t.history) : t.Inv := by
  obtain ⟨hwf, hstands⟩ := h
  refine ⟨hmem ▸ hwf, ?_⟩
  unfold State.faultStands at hstands ⊢
  rw [hfault]
  split
  · trivial
  · next f hf =>
    rw [hf] at hstands
    obtain ⟨haddr, hreport, hstack⟩ := hstands
    exact ⟨hpc.trans haddr, hhist hreport, hsp.symm ▸ hstack⟩

/-- Fault entry records a precise fault, where SP is as the fault's check found it and the fault is none that the host raises. -/
theorem State.faultStands_takeFault (s : State) (k : FaultKind) (a op : Word) (hover : k = .stackOverflow → s.sp.val = 16)
    (hunder : k = .stackUnderflow → s.sp.val = 0) (hrom : k = .romTooLarge → a = 0x200 ∧ op = 0) :
    (s.takeFault k a op).faultStands :=
  ⟨rfl, List.mem_append_right _ (List.mem_singleton_self _), hover, hunder, hrom⟩

/-! ## The CPU activity keeps the invariant -/

/-- An instruction's fault finds SP as R202 and R203 say, and is never the host's RomTooLarge (R201). -/
theorem faultOf_eq_some {s : State} {i : Instr} {k : FaultKind} (h : faultOf s i = some k) :
    (k = .stackOverflow → s.sp.val = 16) ∧ (k = .stackUnderflow → s.sp.val = 0) ∧ k ≠ .romTooLarge := by
  cases i with
  | call nnn | ret u =>
    obtain ⟨hsp, hk⟩ := Option.ite_none_right_eq_some.mp h
    cases hk
    simp [hsp]
  | drw x y n | ldBVx x | ldMemVx x | ldVxMem x | skp x | sknp x =>
    obtain ⟨-, hk⟩ := Option.ite_none_right_eq_some.mp h
    cases hk
    simp
  | _ => cases h

/-- An effect is an instruction's own fault, or leaves FAULT as it was. -/
theorem Effect.fault_cases {i : Instr} {s t : State} (h : Effect i s (.next t)) :
    t.fault = s.fault ∨ ∃ k, faultOf s i = some k ∧ t = s.faultAt k i := by
  cases h with
  | fault k hk => exact .inr ⟨k, hk, rfl⟩
  | skip c => exact .inl (s.skipIf_fault c)
  | regs bs => exact .inl (s.loadRegs_fault 0 bs)
  | jump | stack | reg | flagAndResult | random | latchedKey | screen | draw | index | delay | sound | store => exact .inl rfl

/-- An effect keeps memory canonical (R57). -/
theorem Effect.mem_wf {i : Instr} {s t : State} (h : Effect i s (.next t)) (hwf : Memory.wf s.mem = true) :
    Memory.wf t.mem = true := by
  obtain hmem | ⟨bs, -, hmem⟩ := h.mem_cases
  · rwa [hmem]
  · rw [hmem]
    exact Memory.writeBytes_wf _ _ _ hwf

/-- An instruction that runs where no fault stands leaves the invariant. -/
theorem exec_inv {i : Instr} {s t : State} (h : exec i s = .next t) (hwf : Memory.wf s.mem = true) (hfault : s.fault = none) :
    t.Inv := by
  have heff := Effect.of_exec h
  refine ⟨heff.mem_wf hwf, ?_⟩
  obtain hkept | ⟨k, hk, rfl⟩ := heff.fault_cases
  · exact t.faultStands_of_no_fault (hkept.trans hfault)
  · obtain ⟨hover, hunder, hrom⟩ := faultOf_eq_some hk
    exact s.faultStands_takeFault k _ _ hover hunder fun e => absurd e hrom

/-- A trace line leaves the invariant as it was (R223). -/
theorem State.Inv.tracedUnlessFault {s : State} (h : s.Inv) (kind : String) (a op : Word) :
    (s.tracedUnlessFault kind a op).Inv := by
  obtain ⟨new, hnew⟩ := s.tracedUnlessFault_history kind a op
  exact h.of_same_fields (s.tracedUnlessFault_mem kind a op) (s.tracedUnlessFault_fault kind a op)
    (s.tracedUnlessFault_pc kind a op) (s.tracedUnlessFault_sp kind a op) (hnew ▸ List.subset_append_left _ _)

theorem cpuTick_keeps_inv {s t : State} (h : cpuTick s = .next t) (hs : s.Inv) : t.Inv := by
  have ⟨hwf, _⟩ := hs
  obtain ⟨-, rfl⟩ | ⟨-, -, rfl⟩ | ⟨op, e, hen, -, -, rfl⟩ | ⟨op, i, u, hen, -, -, hu, rfl⟩ := cpuTick_cases s t h
  · exact hs
  · exact ⟨hwf, s.faultStands_takeFault _ _ _ nofun nofun nofun⟩
  · have hunknown : (s.setPc (s.pc + 2)).Inv := ⟨hwf, State.faultStands_of_no_fault _ (s.fault_of_cpuEnabled hen)⟩
    exact hunknown.tracedUnlessFault _ _ _
  · exact (exec_inv hu hwf (s.fault_of_cpuEnabled hen)).tracedUnlessFault _ _ _

/-! ## The timer activity and the host keep the invariant -/

theorem State.Inv.tickTimers {s : State} (h : s.Inv) : s.tickTimers.Inv := by
  refine h.of_same_fields rfl rfl rfl rfl ?_
  rw [State.tickTimers_history]
  split
  · exact List.Subset.refl _
  · exact List.subset_append_left _ _

theorem timerTick_keeps_inv {s t : State} (h : timerTick s = .next t) (hs : s.Inv) : t.Inv := by
  cases hr : s.running with
  | true =>
    rw [timerTick_of_running s hr] at h
    cases h
    exact hs.tickTimers
  | false =>
    rw [timerTick_of_not_running s hr] at h
    cases h
    exact hs

/-- A load leaves the invariant whatever it found: reset's memory and a RomTooLarge at 0x200 (R205), or the ROM and no fault (R208). -/
theorem loadRom_inv {bytes : List Byte} {s t : State} (h : loadRom bytes s = .next t) : t.Inv := by
  unfold loadRom at h
  split at h
  · cases h
    exact ⟨Memory.wf_nil, State.faultStands_takeFault _ _ _ _ nofun nofun fun _ => ⟨rfl, rfl⟩⟩
  · cases h
    exact ⟨Memory.writeBytes_wf _ _ _ Memory.wf_nil, State.faultStands_of_no_fault _ rfl⟩

/-- A key press inside the port contract writes the keys and the latch only (R233). -/
theorem pressKey_keeps_inv {code : Nat} {s t : State} (h : pressKey code s = .next t) (hs : s.Inv) : t.Inv := by
  unfold pressKey at h
  split at h
  · cases h
    exact hs.of_same_fields rfl rfl rfl rfl (List.Subset.refl _)
  · cases h

/-- A key release inside the port contract writes the keys only (R234). -/
theorem releaseKey_keeps_inv {code : Nat} {s t : State} (h : releaseKey code s = .next t) (hs : s.Inv) : t.Inv := by
  unfold releaseKey at h
  split at h
  · cases h
    exact hs.of_same_fields rfl rfl rfl rfl (List.Subset.refl _)
  · cases h

/-- Every atomic step of the three agents keeps the invariant (R15). -/
theorem agentStep_keeps_inv {e : AgentStep} {s t : State} (h : agentStep e s = .next t) (hs : s.Inv) : t.Inv := by
  cases e with
  | cpuTick => exact cpuTick_keeps_inv h hs
  | timerTick => exact timerTick_keeps_inv h hs
  | loadRom bytes => exact loadRom_inv h
  | setKey code => exact pressKey_keeps_inv h hs
  | clearKey code => exact releaseKey_keeps_inv h hs
  | stop | resume | setTrace on =>
    cases h
    exact hs.of_same_fields rfl rfl rfl rfl (List.Subset.refl _)

/-- Settles O60: taking an entry from the schedule keeps the invariant, and so does the step that the entry stands for. -/
theorem everyStepKeepsTheInvariant : Obligations.EveryStepKeepsTheInvariant := by
  intro s t hs h
  rw [step_eq] at h
  have hdeq : s.dequeue.Inv := hs.of_same_fields rfl rfl rfl rfl (List.Subset.refl _)
  exact agentStep_keeps_inv h hdeq

/-! ## A block store is seen by the next fetch (R65, R170, R253) -/

/-- A block that lies in memory is stored without a fault (R170). -/
theorem exec_ldMemVx_of_le (x : Nibble) (s : State) (h : s.i.toNat + x.toNat ≤ 0xFFF) :
    exec (.ldMemVx x) s = .next (s.storeBytes s.i.toNat (s.regBlock x)) :=
  if_pos ((inBounds_iff _ _).mpr (by rw [blockLength]; omega))

/-- After a block store, the cell at I + r holds the register r of the block (R170). -/
theorem State.readByte_storeBytes_regBlock (s : State) (x r : Nibble) (hwf : Memory.wf s.mem = true)
    (hx : s.i.toNat + x.toNat ≤ 0xFFF) (hr : r.toNat ≤ x.toNat) :
    (s.storeBytes s.i.toNat (s.regBlock x)).readByte (s.i.toNat + r.toNat) = s.getV r := by
  have hlen := s.regBlock_length x
  rw [State.readByte, State.storeBytes_mem,
    Memory.read_writeBytes _ _ _ _ hwf (by rw [hlen, Config.memSize]; omega), dif_pos (by omega)]
  simp only [Nat.add_sub_cancel_left]
  exact s.regBlock_getElem x r.toNat _ r.isLt

/-- Settles O39: the fetch at I reads the first two cells of the block. -/
theorem storeIsSeenByTheNextFetch : Obligations.StoreIsSeenByTheNextFetch := by
  intro x s t hwf h1 hx h hpc
  cases (exec_ldMemVx_of_le x s hx).symm.trans h
  have hle : (s.storeBytes s.i.toNat (s.regBlock x)).pc.toNat ≤ 0xFFE := by rw [hpc]; omega
  have hhigh := s.readByte_storeBytes_regBlock x 0x0 hwf hx (Nat.zero_le _)
  have hlow := s.readByte_storeBytes_regBlock x 0x1 hwf hx h1
  rw [State.fetch_of_le _ hle, hpc]
  exact congrArg some (congrArg₂ wordOfBytes hhigh hlow)

/-! ## A fetch beyond memory (R54) -/

/-- The CPU activity has a step while RUNNING and without a standing fault (R40). -/
theorem cpuTick_of_running (s : State) (hrun : s.running = true) (hfault : s.fault = none) : cpuTick s = s.cycle := by
  simp [cpuTick, State.cpuEnabled, hrun, hfault]

theorem State.cycle_of_fetch_none (s : State) (h : s.fetch = none) : s.cycle = .next (s.takeFault .outOfBounds s.pc 0) := by
  rw [State.cycle, h]

/-- Settles O6: the fetch has no word to give, and the fault it takes leaves PC where it stands. -/
theorem fetchBeyondMemoryFaults : Obligations.FetchBeyondMemoryFaults := by
  intro s hrun hfault hpc
  calc agentStep .cpuTick s
      _ = s.cycle := cpuTick_of_running s hrun hfault
      _ = .next (s.takeFault .outOfBounds s.pc 0) := s.cycle_of_fetch_none (s.fetch_none (by omega))

end Sys2Proof.Machine

/-! PROOFS. The decoder and the encoder agree (30_encoding R70 to R81): the word of an instruction decodes to it, a word that decodes is the
word of what was read, and the other words are those of R80's list. -/

namespace Sys2Proof

/-! ## The decoder's first level, by family (R74, R76) -/

theorem decodeWord_of_family0 {w : Word} (h : opFamily w = 0x0) : decodeWord w = decodeFamily0 w := by
  rw [decodeWord, h]; rfl

theorem decodeWord_of_family5 {w : Word} (h : opFamily w = 0x5) (hn : opN w = 0) :
    decodeWord w = .ok (.seReg (opX w) (opY w)) := by
  rw [decodeWord, h]; exact if_pos hn

theorem decodeWord_of_family8 {w : Word} (h : opFamily w = 0x8) : decodeWord w = decodeFamily8 w := by
  rw [decodeWord, h]; rfl

theorem decodeWord_of_family9 {w : Word} (h : opFamily w = 0x9) (hn : opN w = 0) :
    decodeWord w = .ok (.sneReg (opX w) (opY w)) := by
  rw [decodeWord, h]; exact if_pos hn

theorem decodeWord_of_familyE {w : Word} (h : opFamily w = 0xE) : decodeWord w = decodeFamilyE w := by
  rw [decodeWord, h]; rfl

theorem decodeWord_of_familyF {w : Word} (h : opFamily w = 0xF) : decodeWord w = decodeFamilyF w := by
  rw [decodeWord, h]; rfl

/-! ## Encode, then decode (R74 to R79) -/

/-- Family 0 reads SYS from every low byte but those of CLS and of RET (R75). -/
theorem decodeFamily0_eq_sys {w : Word} (hcls : opNN w ≠ 0xE0) (hret : opNN w ≠ 0xEE) :
    decodeFamily0 w = .ok (.sys (opNNN w)) := by
  unfold decodeFamily0
  split
  · next h => exact absurd (BitVec.eq_of_toNat_eq h) hcls
  · next h => exact absurd (BitVec.eq_of_toNat_eq h) hret
  · rfl

/-- SYS is well formed where its low byte is neither that of CLS nor that of RET (R75). -/
theorem wellFormed_sys_iff (nnn : Addr12) :
    WellFormed (.sys nnn) ↔ nnn.setWidth 8 ≠ 0xE0#8 ∧ nnn.setWidth 8 ≠ 0xEE#8 := by
  simp [WellFormed, Instr.wf]

/-- Settles O1: each format's fields are read back as they were written, so each level of the dispatch finds the row it was written from. -/
theorem decodeOfEncodeIsIdentity : Obligations.DecodeOfEncodeIsIdentity := by
  intro i hwf
  cases i with
  | jp nnn | call nnn | ldI nnn | jpV0 nnn => simp [encode, decodeWord]
  | seImm x nn | sneImm x nn | ldImm x nn | addImm x nn | rnd x nn => simp [encode, decodeWord]
  | drw x y n => simp [encode, decodeWord]
  | cls u | ret u => simp [encode, decodeWord_of_family0, decodeFamily0]
  | sys nnn =>
    obtain ⟨hcls, hret⟩ := (wellFormed_sys_iff nnn).mp hwf
    rw [encode, decodeWord_of_family0 (opFamily_encA ..), decodeFamily0_eq_sys (by simpa using hcls) (by simpa using hret),
      opNNN_encA]
  | seReg x y => simp [encode, decodeWord_of_family5]
  | sneReg x y => simp [encode, decodeWord_of_family9]
  | ldReg x y | orReg x y | andReg x y | xorReg x y | addReg x y | sub x y | shr x y | subn x y | shl x y =>
    simp [encode, decodeWord_of_family8, decodeFamily8]
  | skp x | sknp x => simp [encode, decodeWord_of_familyE, decodeFamilyE]
  | ldVxDt x | ldVxK x | ldDtVx x | ldStVx x | addIVx x | ldFVx x | ldBVx x | ldMemVx x | ldVxMem x =>
    simp [encode, decodeWord_of_familyF, decodeFamilyF]

/-! ## A word from the fields that the dispatch has read (R72) -/

/-- The low byte of `nnn` is `nn`. -/
theorem setWidth_opNNN (w : Word) : (opNNN w).setWidth 8 = opNN w := by
  rw [← opNN_encA (opFamily w), encA_fields]

theorem encA_of_family {w : Word} {f : Nibble} (hf : (opFamily w).toNat = f.toNat) : encA f (opNNN w) = w := by
  rw [← BitVec.eq_of_toNat_eq hf, encA_fields]

theorem encXNN_of_family {w : Word} {f : Nibble} (hf : (opFamily w).toNat = f.toNat) : encXNN f (opX w) (opNN w) = w := by
  rw [← BitVec.eq_of_toNat_eq hf, encXNN_fields]

theorem encXNN_of_family_of_nn {w : Word} {f : Nibble} {nn : Byte} (hf : (opFamily w).toNat = f.toNat)
    (hnn : (opNN w).toNat = nn.toNat) : encXNN f (opX w) nn = w := by
  rw [← BitVec.eq_of_toNat_eq hnn, encXNN_of_family hf]

theorem encXYN_of_family {w : Word} {f : Nibble} (hf : (opFamily w).toNat = f.toNat) :
    encXYN f (opX w) (opY w) (opN w) = w := by
  rw [← BitVec.eq_of_toNat_eq hf, encXYN_fields]

theorem encXYN_of_family_of_n {w : Word} {f n : Nibble} (hf : (opFamily w).toNat = f.toNat)
    (hn : (opN w).toNat = n.toNat) : encXYN f (opX w) (opY w) n = w := by
  rw [← BitVec.eq_of_toNat_eq hn, encXYN_of_family hf]

/-! ## What the decoder answers (R74 to R81) -/

/-- The answers that reading `w` can give, where `unknown` says which words have no operation: an instruction that `w` is the word of, or an
error exactly where `unknown` holds. -/
inductive Reads (w : Word) (unknown : Prop) : Except DecodeError Instr → Prop where
  | ok (i : Instr) (henc : encode i = w) (hwf : WellFormed i) (hknown : ¬unknown) : Reads w unknown (.ok i)
  | error (e : DecodeError) (hunknown : unknown) : Reads w unknown (.error e)

theorem Reads.congr {w : Word} {p q : Prop} {r : Except DecodeError Instr} (h : Reads w p r) (hpq : q ↔ p) : Reads w q r :=
  propext hpq ▸ h

theorem Reads.encode_eq {w : Word} {p : Prop} {i : Instr} (h : Reads w p (.ok i)) : encode i = w ∧ WellFormed i := by
  cases h with
  | ok _ henc hwf => exact ⟨henc, hwf⟩

theorem Reads.error_iff {w : Word} {p : Prop} {r : Except DecodeError Instr} (h : Reads w p r) : (∃ e, r = .error e) ↔ p := by
  cases h with
  | ok i henc hwf hknown => simp [hknown]
  | error e hunknown => simp [hunknown]

/-- Family 0 has no unknown word (R80). -/
theorem decodeFamily0_reads {w : Word} (hf : (opFamily w).toNat = 0x0) : Reads w False (decodeFamily0 w) := by
  unfold decodeFamily0
  split
  · next h => exact .ok _ (encXNN_of_family_of_nn hf h) rfl not_false
  · next h => exact .ok _ (encXNN_of_family_of_nn hf h) rfl not_false
  · next hcls hret =>
    refine .ok _ (encA_of_family hf) ((wellFormed_sys_iff _).mpr ?_) not_false
    rw [setWidth_opNNN]
    exact ⟨fun h => hcls (congrArg BitVec.toNat h), fun h => hret (congrArg BitVec.toNat h)⟩

/-- The rows of R77; the last arm is left with the low nibbles that no row lists. -/
theorem decodeFamily8_reads {w : Word} (hf : (opFamily w).toNat = 0x8) :
    Reads w ((opN w).toNat ∈ [0x8, 0x9, 0xA, 0xB, 0xC, 0xD, 0xF]) (decodeFamily8 w) := by
  unfold decodeFamily8
  split
  case h_10 =>
    refine .error _ ?_
    have hlt := (opN w).isLt
    simp only [imp_false] at *
    simp only [List.mem_cons, List.not_mem_nil]
    omega
  all_goals next h => exact .ok _ (encXYN_of_family_of_n hf h) rfl (by simp [h])

/-- The rows of R78. -/
theorem decodeFamilyE_reads {w : Word} (hf : (opFamily w).toNat = 0xE) :
    Reads w ((opNN w).toNat ∉ [0x9E, 0xA1]) (decodeFamilyE w) := by
  unfold decodeFamilyE
  split
  case h_3 => exact .error _ (by simp only [List.mem_cons, List.not_mem_nil, or_false, not_or]; and_intros <;> assumption)
  all_goals next h => exact .ok _ (encXNN_of_family_of_nn hf h) rfl (by simp [h])

/-- The rows of R79. -/
theorem decodeFamilyF_reads {w : Word} (hf : (opFamily w).toNat = 0xF) :
    Reads w ((opNN w).toNat ∉ [0x07, 0x0A, 0x15, 0x18, 0x1E, 0x29, 0x33, 0x55, 0x65]) (decodeFamilyF w) := by
  unfold decodeFamilyF
  split
  case h_10 => exact .error _ (by simp only [List.mem_cons, List.not_mem_nil, or_false, not_or]; and_intros <;> assumption)
  all_goals next h => exact .ok _ (encXNN_of_family_of_nn hf h) rfl (by simp [h])

/-! ## The first level, and R80's list -/

/-- The words of R80's list, in the fields of R72. -/
def IsUnknown (w : Word) : Prop :=
  ((opFamily w).toNat = 0x5 ∧ (opN w).toNat ≠ 0) ∨
  ((opFamily w).toNat = 0x8 ∧ (opN w).toNat ∈ [0x8, 0x9, 0xA, 0xB, 0xC, 0xD, 0xF]) ∨
  ((opFamily w).toNat = 0x9 ∧ (opN w).toNat ≠ 0) ∨
  ((opFamily w).toNat = 0xE ∧ (opNN w).toNat ∉ [0x9E, 0xA1]) ∨
  ((opFamily w).toNat = 0xF ∧ (opNN w).toNat ∉ [0x07, 0x0A, 0x15, 0x18, 0x1E, 0x29, 0x33, 0x55, 0x65])

theorem isUnknown_iff (w : Word) : IsUnknown w ↔
    (w.toNat / 4096 = 0x5 ∧ w.toNat % 16 ≠ 0) ∨
    (w.toNat / 4096 = 0x8 ∧ w.toNat % 16 ∈ [0x8, 0x9, 0xA, 0xB, 0xC, 0xD, 0xF]) ∨
    (w.toNat / 4096 = 0x9 ∧ w.toNat % 16 ≠ 0) ∨
    (w.toNat / 4096 = 0xE ∧ w.toNat % 256 ∉ [0x9E, 0xA1]) ∨
    (w.toNat / 4096 = 0xF ∧ w.toNat % 256 ∉ [0x07, 0x0A, 0x15, 0x18, 0x1E, 0x29, 0x33, 0x55, 0x65]) := by
  simp only [IsUnknown, opFamily_toNat, opN_toNat, opNN_toNat]

/-- What any word is read as. Arm `h_k` is that of family `k - 1`. -/
theorem decodeWord_reads (w : Word) : Reads w (IsUnknown w) (decodeWord w) := by
  unfold decodeWord
  split
  case h_2 h | h_3 h | h_11 h | h_12 h => exact .ok _ (encA_of_family h) rfl (by simp [IsUnknown, h])
  case h_4 h | h_5 h | h_7 h | h_8 h | h_13 h => exact .ok _ (encXNN_of_family h) rfl (by simp [IsUnknown, h])
  case h_14 h => exact .ok _ (encXYN_of_family h) rfl (by simp [IsUnknown, h])
  case h_6 h | h_10 h =>
    split
    · next hn => exact .ok _ (encXYN_of_family_of_n h (congrArg BitVec.toNat hn)) rfl (by simp [IsUnknown, h, hn])
    · next hn =>
      have hne : (opN w).toNat ≠ 0 := fun e => hn (BitVec.eq_of_toNat_eq e)
      exact .error _ (by simp [IsUnknown, h, hne])
  case h_1 h => exact (decodeFamily0_reads h).congr (by simp [IsUnknown, h])
  case h_9 h => exact (decodeFamily8_reads h).congr (by simp [IsUnknown, h])
  case h_15 h => exact (decodeFamilyE_reads h).congr (by simp [IsUnknown, h])
  case h_16 =>
    have h : (opFamily w).toNat = 0xF := by
      have hlt := (opFamily w).isLt
      simp only [imp_false] at *
      omega
    exact (decodeFamilyF_reads h).congr (by simp [IsUnknown, h])

/-! ## Decode, then encode; the unknown words (R80, R81) -/

/-- Settles O2: whatever is read from a word carries each field of it, in the row that the word was read by. -/
theorem encodeOfDecodeIsIdentity : Obligations.EncodeOfDecodeIsIdentity := by
  intro w i h
  exact (h ▸ decodeWord_reads w).encode_eq

/-- Settles O3: no word of R80's list is read as an instruction, and every word outside it is. -/
theorem unknownWordsAreThoseListed : Obligations.UnknownWordsAreThoseListed := by
  intro w
  exact (decodeWord_reads w).error_iff.trans (isUnknown_iff w)

end Sys2Proof

/-! PROOFS. Family 0x0 and control flow (40_flow): the words of these instructions and what each answers, and the self-jump that a program
stays in at its end (R110, 70_reset R258). -/

namespace Sys2Proof.Machine

/-! ## Words, faults and skips in the claims' own terms -/

/-- A word is decoded to the instruction that it is the word of (R74 to R79). -/
theorem decodeWord_of_encode_eq {i : Instr} {w : Word} (hwf : WellFormed i) (h : encode i = w) : decodeWord w = .ok i :=
  h ▸ decodeOfEncodeIsIdentity i hwf

/-- The fault of an instruction is the one that R206 writes out, with the instruction's word in the record. -/
theorem State.faultAt_eq_afterFault (s : State) (k : FaultKind) {i : Instr} {w : Word} (h : encode i = w) :
    s.faultAt k i = s.afterFault k w :=
  h ▸ rfl

/-- A skip writes PC alone (R105). -/
theorem State.skipIf_eq (s : State) (c : Bool) : s.skipIf c = { s with pc := if c then s.pc + 2 else s.pc } := by
  cases c with
  | true => rfl
  | false => rfl

/-- The skip of SE (R105, R107). -/
theorem State.skipIf_beq (s : State) (a b : Byte) : s.skipIf (a == b) = { s with pc := if a = b then s.pc + 2 else s.pc } := by
  simp only [s.skipIf_eq, beq_iff_eq]

/-- The skip of SNE (R106, R108). -/
theorem State.skipIf_bne (s : State) (a b : Byte) : s.skipIf (a != b) = { s with pc := if a = b then s.pc else s.pc + 2 } := by
  simp only [s.skipIf_eq, bne_iff_ne, ite_not]

/-! ## CLS (R100) -/

/-- A screen of zero rows has no lit pixel (R36). -/
theorem fbPixel_replicate_zero (p : Nat) : fbPixel (Vector.replicate 32 0) p = false := by
  unfold fbPixel pixelAt
  split
  · rw [Vector.getElem_replicate]
    exact BitVec.getLsbD_zero
  · rfl

/-- Settles O10: the screen shown has no lit pixel, and it is the one that the update carries. -/
theorem clsClearsTheScreen : Obligations.ClsClearsTheScreen := by
  intro u s
  exact ⟨decodeWord_of_encode_eq rfl (encXNN_eq 0x0 u 0xE0), _, rfl, fun p _ => fbPixel_replicate_zero p, rfl⟩

/-! ## RET and CALL (R101, R104, R202, R203) -/

theorem execRet_of_empty (u : Nibble) (s : State) (h : s.sp.val = 0) :
    execRet u s = .next (s.faultAt .stackUnderflow (.ret u)) := by
  rw [execRet, s.pop_empty h]

theorem execRet_of_succ (u : Nibble) (s : State) (k : Nat) (hk : k < 16) (h : s.sp.val = k + 1) :
    execRet u s = .next { s with pc := s.stack[k], sp := ⟨k, by omega⟩ } := by
  rw [execRet, s.pop_of_succ k h hk]
  rfl

theorem execCall_of_full (nnn : Addr12) (s : State) (h : s.sp.val = 16) :
    execCall nnn s = .next (s.faultAt .stackOverflow (.call nnn)) := by
  rw [execCall, s.push_full _ h]

theorem execCall_of_lt (nnn : Addr12) (s : State) (h : s.sp.val < 16) :
    execCall nnn s = .next { s with
      pc := addrOperand nnn, sp := ⟨s.sp.val + 1, by omega⟩, stack := s.stack.set s.sp.val s.pc h } := by
  rw [execCall, s.push_of_lt _ h]
  rfl

/-- Settles O11: a pop has a slot to give exactly where a call is active. -/
theorem retPopsOrUnderflows : Obligations.RetPopsOrUnderflows := by
  intro u s
  have hword : encode (.ret u) = 0x0#4 ++ u ++ 0xEE#8 := encXNN_eq 0x0 u 0xEE
  refine ⟨decodeWord_of_encode_eq rfl hword, fun h => ?_, fun k hk h => ?_⟩
  · rw [← s.faultAt_eq_afterFault _ hword]
    exact execRet_of_empty u s h
  · exact ⟨_, execRet_of_succ u s k hk h, rfl, rfl, rfl⟩

/-- Settles O14: a push has a slot to take exactly where fewer than 16 calls are active, and it writes that slot alone. -/
theorem callPushesOrOverflows : Obligations.CallPushesOrOverflows := by
  intro nnn s
  refine ⟨decodeWord_of_encode_eq (i := .call nnn) rfl rfl, fun h => execCall_of_full nnn s h, ?_⟩
  rintro k hk rfl
  exact ⟨_, execCall_of_lt nnn s hk, rfl, Vector.getElem_set_self .., fun j hj hne => Vector.getElem_set_ne hk hj hne.symm,
    addrOperand_toNat nnn, rfl⟩

/-! ## SYS and JP (R102, R103) -/

/-- Settles O12: the two low bytes excluded are those that SYS is not well formed with. -/
theorem sysIsNoOperation : Obligations.SysIsNoOperation := by
  intro nnn s
  refine ⟨fun hcls hret => decodeWord_of_encode_eq (i := .sys nnn) ?_ rfl, rfl⟩
  rw [wellFormed_sys_iff, ne_eq, ne_eq, ← BitVec.toNat_inj, ← BitVec.toNat_inj, BitVec.toNat_setWidth]
  exact ⟨hcls, hret⟩

/-- Settles O13: the operand is zero-extended, so PC holds it as a number. -/
theorem jpJumps : Obligations.JpJumps := by
  intro nnn s
  exact ⟨decodeWord_of_encode_eq (i := .jp nnn) rfl rfl, _, rfl, addrOperand_toNat nnn, rfl⟩

/-! ## The conditional skips (R105 to R108) -/

/-- Settles O15: both skips write PC alone, on the one comparison. -/
theorem immediateSkips : Obligations.ImmediateSkips := by
  intro x nn s
  exact ⟨decodeWord_of_encode_eq rfl (encXNN_eq 0x3 x nn), decodeWord_of_encode_eq rfl (encXNN_eq 0x4 x nn),
    congrArg _ (s.skipIf_beq (s.getV x) nn), congrArg _ (s.skipIf_bne (s.getV x) nn)⟩

/-- Settles O16: both skips write PC alone, on the one comparison. -/
theorem registerSkips : Obligations.RegisterSkips := by
  intro x y s
  exact ⟨decodeWord_of_encode_eq rfl (encXYN_eq 0x5 x y 0x0), decodeWord_of_encode_eq rfl (encXYN_eq 0x9 x y 0x0),
    congrArg _ (s.skipIf_beq (s.getV x) (s.getV y)), congrArg _ (s.skipIf_bne (s.getV x) (s.getV y))⟩

/-! ## The end of a program (R110, R258) -/

/-- The states at their end: no fault, and a fetch of a JP to PC (R258). -/
theorem State.isAtEnd_iff (s : State) :
    s.isAtEnd = true ↔ s.fault = none ∧ s.pc.toNat ≤ 0xFFE ∧ (s.wordAt s.pc.toNat).toNat = 0x1000 + s.pc.toNat := by
  simp [State.isAtEnd, and_assoc]

/-- Being at the end is a matter of FAULT, PC and memory. -/
theorem State.isAtEnd_congr {s t : State} (hfault : t.fault = s.fault) (hpc : t.pc = s.pc) (hmem : t.mem = s.mem) :
    t.isAtEnd = s.isAtEnd := by
  have hword : t.wordAt s.pc.toNat = s.wordAt s.pc.toNat := by
    rw [State.wordAt, s.readByte_congr t hmem, s.readByte_congr t hmem, State.wordAt]
  rw [State.isAtEnd, hfault, hpc, hword, State.isAtEnd]

/-- An address below 4096 is the operand of its low 12 bits (R73). -/
theorem addrOperand_setWidth {a : Word} (h : a.toNat < 4096) : addrOperand (a.setWidth 12) = a := by
  apply BitVec.eq_of_toNat_eq
  rw [addrOperand_toNat, BitVec.toNat_setWidth]
  omega

/-- The word 1nnn with nnn = a, told by its number, is JP a (R103). -/
theorem decodeWord_eq_jp {w a : Word} (ha : a.toNat < 4096) (h : w.toNat = 0x1000 + a.toNat) :
    decodeWord w = .ok (.jp (a.setWidth 12)) := by
  refine decodeWord_of_encode_eq rfl (BitVec.eq_of_toNat_eq ?_)
  rw [encode, encA_toNat, BitVec.toNat_setWidth, Nat.mod_eq_of_lt ha, h]
  rfl

/-- One cycle around an instruction that answers a next state (R250). -/
theorem State.cycle_of_exec {s t : State} {op : Word} {i : Instr} (hfetch : s.fetch = some op) (hdec : decodeWord op = .ok i)
    (hexec : exec i (s.setPc (s.pc + 2)) = .next t) : s.cycle = .next (t.afterTrace i.mnemonic s.pc op) := by
  simp only [State.cycle, State.runWord, hfetch, hdec, hexec, State.tracedUnlessFault_eq]

/-- At its end, a cycle is the self-jump: PC comes back to where it stood, and the JP leaves its trace line (R110, R223). -/
theorem State.cycle_of_isAtEnd {s : State} (h : s.isAtEnd = true) :
    s.cycle = .next (s.afterTrace "JP" s.pc (s.wordAt s.pc.toNat)) := by
  obtain ⟨-, hpc, hword⟩ := s.isAtEnd_iff.mp h
  have hjump : (s.setPc (s.pc + 2)).setPc (addrOperand (s.pc.setWidth 12)) = s := by
    rw [addrOperand_setWidth (by omega)]
    rfl
  exact State.cycle_of_exec (s.fetch_of_le hpc) (decodeWord_eq_jp (by omega) hword) (congrArg _ hjump)

/-- A trace line writes neither FAULT nor PC nor memory. -/
theorem State.isAtEnd_afterTrace (s : State) (kind : String) (a op : Word) : (s.afterTrace kind a op).isAtEnd = s.isAtEnd := by
  rw [← State.tracedUnlessFault_eq]
  exact State.isAtEnd_congr (s.tracedUnlessFault_fault ..) (s.tracedUnlessFault_pc ..) (s.tracedUnlessFault_mem ..)

/-- Settles O55: the tick's cycle is the self-jump, whose trace line leaves the machine at its end. -/
theorem endOfProgramIsKept : Obligations.EndOfProgramIsKept := by
  intro s hend hrun hnext
  have hend' : s.dequeue.isAtEnd = true := hend
  obtain ⟨hfault, -⟩ := s.isAtEnd_iff.mp hend
  refine ⟨_, ?_, (s.dequeue.isAtEnd_afterTrace ..).trans hend', rfl⟩
  calc step s
      _ = cpuTick s.dequeue := by rw [step_eq, hnext]; rfl
      _ = s.dequeue.cycle := cpuTick_of_running s.dequeue hrun hfault
      _ = .next (s.dequeue.afterTrace "JP" s.pc (s.wordAt s.pc.toNat)) := State.cycle_of_isAtEnd hend'

end Sys2Proof.Machine

/-! PROOFS. Register arithmetic (41_alu): the words of these instructions, and the one or two registers that each writes. -/

namespace Sys2Proof.Machine

/-! ## What a write of one register, or of flag and result, answers (R22, R121) -/

/-- An instruction that writes Vx alone: the written byte in Vx, every other register and every other field as it was. -/
theorem exec_of_setV {i : Instr} {s : State} {x : Nibble} {b : Byte} (h : exec i s = .next (s.setV x b)) :
    ∃ t, exec i s = .next t ∧ t.getV x = b ∧ (∀ r, r ≠ x → t.getV r = s.getV r) ∧ t = { s with v := t.v } :=
  ⟨_, h, s.getV_setV_same x b, fun r => s.getV_setV_ne x r b, rfl⟩

/-- An instruction that writes a flag, then its result: the result in Vx whatever x is, the flag in VF unless x is F (R121). -/
theorem exec_of_setFlagAndResult {i : Instr} {s : State} {x : Nibble} {fl b : Byte}
    (h : exec i s = .next (s.setFlagAndResult x fl b)) :
    ∃ t, exec i s = .next t ∧ t.getV x = b ∧ (x ≠ 0xF → t.getV 0xF = fl) ∧
      (∀ r, r ≠ x → r ≠ 0xF → t.getV r = s.getV r) ∧ t = { s with v := t.v } := by
  refine ⟨_, h, ?_, fun hx => ?_, fun r hx hf => ?_, rfl⟩
  · rw [s.getV_setFlagAndResult, if_pos rfl]
  · rw [s.getV_setFlagAndResult, if_neg hx.symm, if_pos rfl]
  · rw [s.getV_setFlagAndResult, if_neg hx, if_neg hf]

/-! ## Results and flags as numbers (R120) -/

/-- A difference of bytes as a number: 256 more keeps it from going below 0 (R129, R131). -/
theorem byte_sub_toNat (p q : Byte) : (p - q).toNat = (256 + p.toNat - q.toNat) % 256 := by
  rw [BitVec.toNat_sub]
  omega

/-- A right shift by one halves (R130). -/
theorem byte_shiftRight_one_toNat (b : Byte) : (b >>> 1).toNat = b.toNat / 2 := by
  rw [BitVec.toNat_ushiftRight, Nat.shiftRight_eq_div_pow, Nat.pow_one]

/-- A left shift by one doubles, modulo 256 (R132). -/
theorem byte_shiftLeft_one_toNat (b : Byte) : (b <<< 1).toNat = b.toNat * 2 % 256 := by
  rw [BitVec.toNat_shiftLeft, Nat.shiftLeft_eq, Nat.pow_one]

theorem flagByte_decide (p : Prop) [Decidable p] : flagByte (decide p) = if p then 1 else 0 := by
  simp only [flagByte, decide_eq_true_eq]

/-- Bit 0 is the remainder of the halving (R130). -/
theorem shiftedOutLow_toNat (b : Byte) : (shiftedOutLow b).toNat = b.toNat % 2 :=
  (BitVec.toNat_and b 0x01).trans (Nat.and_one_is_mod b.toNat)

/-- Bit 7 is all that is left of a byte divided by 128 (R132). -/
theorem shiftedOutHigh_toNat (b : Byte) : (shiftedOutHigh b).toNat = b.toNat / 128 := by
  have hb : b.toNat < 256 := b.isLt
  calc (shiftedOutHigh b).toNat
      _ = (b >>> 7).toNat % 2 := shiftedOutLow_toNat (b >>> 7)
      _ = b.toNat / 2 ^ 7 % 2 := by rw [BitVec.toNat_ushiftRight, Nat.shiftRight_eq_div_pow]
      _ = b.toNat / 128 := by omega

/-! ## LD and ADD of an immediate, LD of a register (R122 to R124) -/

/-- Settles O17: both write one register alone. -/
theorem loadsOfARegister : Obligations.LoadsOfARegister := by
  intro x y nn s
  exact ⟨decodeWord_of_encode_eq rfl (encXNN_eq 0x6 x nn), decodeWord_of_encode_eq rfl (encXYN_eq 0x8 x y 0x0),
    exec_of_setV rfl, exec_of_setV rfl⟩

/-- Settles O18: the sum of bytes is reduced modulo 256, and VF is one of the registers that are not written. -/
theorem addImmediateWraps : Obligations.AddImmediateWraps := by
  intro x nn s
  obtain ⟨t, hexec, hresult, hother, hframe⟩ := exec_of_setV (i := .addImm x nn) (s := s) rfl
  refine ⟨decodeWord_of_encode_eq rfl (encXNN_eq 0x7 x nn), t, hexec, ?_, hother, hframe⟩
  rw [hresult, BitVec.toNat_add]

/-! ## OR, AND and XOR (R125 to R127) -/

/-- Settles O19: each writes one register alone, and the library says what each bit of the byte written is. -/
theorem bitwiseOperations : Obligations.BitwiseOperations := by
  intro x y s
  refine ⟨decodeWord_of_encode_eq rfl (encXYN_eq 0x8 x y 0x1), decodeWord_of_encode_eq rfl (encXYN_eq 0x8 x y 0x2),
    decodeWord_of_encode_eq rfl (encXYN_eq 0x8 x y 0x3), ?or, ?and, ?xor⟩
  case or =>
    obtain ⟨t, hexec, hresult, hother, hframe⟩ := exec_of_setV (i := .orReg x y) (s := s) rfl
    exact ⟨t, hexec, fun k _ => by rw [hresult, BitVec.getLsbD_or], hother, hframe⟩
  case and =>
    obtain ⟨t, hexec, hresult, hother, hframe⟩ := exec_of_setV (i := .andReg x y) (s := s) rfl
    exact ⟨t, hexec, fun k _ => by rw [hresult, BitVec.getLsbD_and], hother, hframe⟩
  case xor =>
    obtain ⟨t, hexec, hresult, hother, hframe⟩ := exec_of_setV (i := .xorReg x y) (s := s) rfl
    exact ⟨t, hexec, fun k _ => by rw [hresult, BitVec.getLsbD_xor], hother, hframe⟩

/-! ## The operations that write VF (R128 to R132) -/

/-- Settles O20: the flag and the result are of the old operands, and the result is written last. -/
theorem addRegisterSetsCarry : Obligations.AddRegisterSetsCarry := by
  intro x y s
  obtain ⟨t, hexec, hresult, hflag, hframe⟩ := exec_of_setFlagAndResult (i := .addReg x y) (s := s) rfl
  refine ⟨decodeWord_of_encode_eq rfl (encXYN_eq 0x8 x y 0x4), t, hexec, ?_, fun hx => ?_, hframe⟩
  · rw [hresult, BitVec.toNat_add]
  · rw [hflag hx, carryFlag, flagByte_decide]

/-- Settles O21: the flag compares the old operands strictly, and the result is written last. -/
theorem subtractSetsFlag : Obligations.SubtractSetsFlag := by
  intro x y s
  obtain ⟨t, hexec, hresult, hflag, hframe⟩ := exec_of_setFlagAndResult (i := .sub x y) (s := s) rfl
  refine ⟨decodeWord_of_encode_eq rfl (encXYN_eq 0x8 x y 0x5), t, hexec, ?_, fun hx => ?_, hframe⟩
  · rw [hresult, byte_sub_toNat]
  · rw [hflag hx, aboveFlag, flagByte_decide]

/-- Settles O22: the bit shifted out and the half are of the old Vx, and the half is written last. -/
theorem shiftRightSetsFlag : Obligations.ShiftRightSetsFlag := by
  intro x y s
  obtain ⟨t, hexec, hresult, hflag, hframe⟩ := exec_of_setFlagAndResult (i := .shr x y) (s := s) rfl
  refine ⟨decodeWord_of_encode_eq rfl (encXYN_eq 0x8 x y 0x6), t, hexec, ?_, fun hx => ?_, hframe⟩
  · rw [hresult, byte_shiftRight_one_toNat]
  · rw [hflag hx, shiftedOutLow_toNat]

/-- Settles O23: the subtraction of O21 with its operands exchanged, written to the same register. -/
theorem reverseSubtractSetsFlag : Obligations.ReverseSubtractSetsFlag := by
  intro x y s
  obtain ⟨t, hexec, hresult, hflag, hframe⟩ := exec_of_setFlagAndResult (i := .subn x y) (s := s) rfl
  refine ⟨decodeWord_of_encode_eq rfl (encXYN_eq 0x8 x y 0x7), t, hexec, ?_, fun hx => ?_, hframe⟩
  · rw [hresult, byte_sub_toNat]
  · rw [hflag hx, aboveFlag, flagByte_decide]

/-- Settles O24: the bit shifted out and the double are of the old Vx, and the double is written last. -/
theorem shiftLeftSetsFlag : Obligations.ShiftLeftSetsFlag := by
  intro x y s
  obtain ⟨t, hexec, hresult, hflag, hframe⟩ := exec_of_setFlagAndResult (i := .shl x y) (s := s) rfl
  refine ⟨decodeWord_of_encode_eq rfl (encXYN_eq 0x8 x y 0xE), t, hexec, ?_, fun hx => ?_, hframe⟩
  · rw [hresult, byte_shiftLeft_one_toNat]
  · rw [hflag hx, shiftedOutHigh_toNat]

end Sys2Proof.Machine

/-! PROOFS. Index, computed jump, random and draw (42_index_draw): the words of these instructions and what each answers, the pixels that a
sprite inverts (R144 to R148), and the one instruction that draws from RANDOM (R142). -/

namespace Sys2Proof.Machine

/-! ## LD I and JP V0 (R140, R141) -/

/-- Settles O25: the operand is zero-extended, so I holds it as a number. -/
theorem loadIndex : Obligations.LoadIndex := by
  intro nnn s
  exact ⟨decodeWord_of_encode_eq (i := .ldI nnn) rfl rfl, _, rfl, addrOperand_toNat nnn, rfl⟩

/-- Settles O26: the sum of 12 and 8 bits fits in PC, so it is exact. -/
theorem jumpPlusV0 : Obligations.JumpPlusV0 := by
  intro nnn s
  exact ⟨decodeWord_of_encode_eq (i := .jpV0 nnn) rfl rfl, _, rfl, jumpV0Target_toNat nnn (s.getV 0x0), rfl⟩

/-! ## RND (R142, R143) -/

/-- RND takes one value and writes it, masked, to Vx. -/
theorem exec_rnd (x : Nibble) (nn : Byte) (s : State) :
    exec (.rnd x nn) s = .next (s.drawRandom.2.setV x (Config.randomByte s.draws &&& nn)) := rfl

/-- Settles O27: a write of one register, after the draw that advances the counter. -/
theorem randomIsMasked : Obligations.RandomIsMasked := by
  intro x nn s
  have hresult := s.drawRandom.2.getV_setV_same x (Config.randomByte s.draws &&& nn)
  refine ⟨decodeWord_of_encode_eq rfl (encXNN_eq 0xC x nn), _, exec_rnd x nn s, hresult, fun k hk => ?_,
    fun r => s.drawRandom.2.getV_setV_ne x r _, rfl⟩
  rw [hresult, BitVec.getLsbD_and, hk, Bool.and_false]

/-- The instruction that draws is RND (R142). -/
theorem eq_rnd_of_mayDraw {i : Instr} (h : mayDraw i = true) : ∃ x nn, i = .rnd x nn := by
  cases i with
  | rnd x nn => exact ⟨x, nn, rfl⟩
  | _ => cases h

/-- An instruction draws nothing, or is an RND and draws one value. -/
theorem exec_draws_cases {i : Instr} {s t : State} (h : exec i s = .next t) :
    t.draws = s.draws ∨ (t.draws = s.draws + 1 ∧ ∃ x nn, i = .rnd x nn) := by
  cases hi : mayDraw i with
  | false =>
    obtain ⟨-, -, -, -, -, -, hdraws, -⟩ := otherStateNotNamedIsUnchanged i s t h
    exact .inl (hdraws hi)
  | true =>
    obtain ⟨x, nn, rfl⟩ := eq_rnd_of_mayDraw hi
    rw [exec_rnd] at h
    cases h
    exact .inr ⟨rfl, x, nn, rfl⟩

/-- A fetch has only the word at PC to give. -/
theorem State.eq_wordAt_of_fetch {s : State} {op : Word} (h : s.fetch = some op) : s.wordAt s.pc.toNat = op := by
  obtain ⟨-, hop⟩ := Option.ite_none_right_eq_some.mp h
  exact Option.some.inj hop

/-- A CPU tick draws nothing, or its word at PC is an RND and it draws one value. -/
theorem cpuTick_draws_cases {s t : State} (h : cpuTick s = .next t) :
    t.draws = s.draws ∨ (t.draws = s.draws + 1 ∧ ∃ x nn, decodeWord (s.wordAt s.pc.toNat) = .ok (.rnd x nn)) := by
  obtain ⟨-, rfl⟩ | ⟨-, -, rfl⟩ | ⟨op, e, -, -, -, rfl⟩ | ⟨op, i, u, -, hfetch, hdec, hu, rfl⟩ := cpuTick_cases s t h
  · exact .inl rfl
  · exact .inl rfl
  · exact .inl (State.tracedUnlessFault_draws ..)
  · rw [State.tracedUnlessFault_draws, State.eq_wordAt_of_fetch hfetch]
    obtain hkept | ⟨hone, x, nn, rfl⟩ := exec_draws_cases hu
    · exact .inl hkept
    · exact .inr ⟨hone, x, nn, hdec⟩

theorem loadRom_draws {bytes : List Byte} {s t : State} (h : loadRom bytes s = .next t) : t.draws = s.draws := by
  unfold loadRom at h
  split at h
  · cases h
    rfl
  · cases h
    rfl

theorem timerTick_draws {s t : State} (h : timerTick s = .next t) : t.draws = s.draws := by
  cases hr : s.running with
  | true =>
    rw [timerTick_of_running s hr] at h
    cases h
    rfl
  | false =>
    rw [timerTick_of_not_running s hr] at h
    cases h
    rfl

theorem pressKey_draws {code : Nat} {s t : State} (h : pressKey code s = .next t) : t.draws = s.draws := by
  unfold pressKey at h
  split at h
  · cases h
    rfl
  · cases h

theorem releaseKey_draws {code : Nat} {s t : State} (h : releaseKey code s = .next t) : t.draws = s.draws := by
  unfold releaseKey at h
  split at h
  · cases h
    rfl
  · cases h

/-- No agent but the CPU activity draws (R142). -/
theorem agentStep_draws {e : AgentStep} {s t : State} (h : agentStep e s = .next t) (he : e ≠ .cpuTick) : t.draws = s.draws := by
  cases e with
  | cpuTick => exact absurd rfl he
  | timerTick => exact timerTick_draws h
  | loadRom bytes => exact loadRom_draws h
  | setKey code => exact pressKey_draws h
  | clearKey code => exact releaseKey_draws h
  | stop | resume | setTrace on =>
    cases h
    rfl

/-- Settles O54: the agent is the CPU activity, for no other draws, and its word is an RND, for no other instruction does. -/
theorem onlyRndDraws : Obligations.OnlyRndDraws := by
  intro s t h hdraws
  rw [step_eq] at h
  have hcpu : s.nextAgent = .cpuTick := by_contra fun he => hdraws (agentStep_draws (s := s.dequeue) h he)
  rw [hcpu] at h
  obtain hkept | ⟨hone, hrnd⟩ := cpuTick_draws_cases h
  · exact absurd hkept hdraws
  · exact ⟨hone, hcpu, hrnd⟩

/-! ## The pixels of a draw (R144, R146, R147) -/

/-- The pixels of a screen are row-major (R36). -/
theorem fbPixel_rowMajor (f : Screen) {px : Nat} (py : Nat) (hx : px < 64) : fbPixel f (py * 64 + px) = pixelAt f px py := by
  have hcol : (py * 64 + px) % 64 = px := by omega
  have hrow : (py * 64 + px) / 64 = py := by omega
  rw [fbPixel, hcol, hrow]

/-- A screen is its 2048 pixels (R36). -/
theorem screen_ext {f g : Screen} (h : ∀ px py, px < 64 → py < 32 → pixelAt f px py = pixelAt g px py) : f = g := by
  refine Vector.ext fun py hy => BitVec.eq_of_getLsbD_eq fun px hx => ?_
  have hp := h px py hx hy
  rwa [pixelAt, pixelAt, dif_pos hy, dif_pos hy] at hp

/-- A set bit lands on the screen (R146). -/
theorem RowsLand.lt {xs ys r : Nat} {bs : List Byte} {px py : Nat} (h : RowsLand xs ys r bs px py) : px < 64 ∧ py < 32 := by
  obtain ⟨j, c, -, -, -, rfl, rfl⟩ := h
  exact ⟨Nat.mod_lt _ (by decide), Nat.mod_lt _ (by decide)⟩

section
open Classical
variable {f : Screen} {xs ys : Nat} {bs : List Byte}

theorem pixelAt_drawSprite_of_lands (hb : bs.length ≤ 32) {px py : Nat} (h : RowsLand xs ys 0 bs px py) :
    pixelAt (drawSprite f xs ys bs).fb px py = !pixelAt f px py := by
  rw [drawSprite, pixelAt_drawRows _ _ _ _ _ _ _ h.lt.1 hb, decide_eq_true h, Bool.xor_true]

theorem pixelAt_drawSprite_of_not_lands (hb : bs.length ≤ 32) {px py : Nat} (hx : px < 64) (h : ¬RowsLand xs ys 0 bs px py) :
    pixelAt (drawSprite f xs ys bs).fb px py = pixelAt f px py := by
  rw [drawSprite, pixelAt_drawRows _ _ _ _ _ _ _ hx hb, decide_eq_false h, Bool.xor_false]

theorem collision_drawSprite_iff (hb : bs.length ≤ 32) :
    (drawSprite f xs ys bs).collision = true ↔ ∃ px py, RowsLand xs ys 0 bs px py ∧ pixelAt f px py = true := by
  rw [drawSprite, collision_drawRows _ _ _ _ _ hb, Bool.false_or, decide_eq_true_iff]

/-- A pixel is inverted twice or not at all, so a second draw restores the screen (95 W5). -/
theorem drawSprite_twice_fb (hb : bs.length ≤ 32) : (drawSprite (drawSprite f xs ys bs).fb xs ys bs).fb = f := by
  refine screen_ext fun px py hx _ => ?_
  by_cases h : RowsLand xs ys 0 bs px py
  · rw [pixelAt_drawSprite_of_lands hb h, pixelAt_drawSprite_of_lands hb h, Bool.not_not]
  · rw [pixelAt_drawSprite_of_not_lands hb hx h, pixelAt_drawSprite_of_not_lands hb hx h]

/-- A second draw collides exactly where the first one turned a pixel on (95 W5). -/
theorem drawSprite_twice_collision_iff (hb : bs.length ≤ 32) :
    (drawSprite (drawSprite f xs ys bs).fb xs ys bs).collision = true ↔
      ∃ px py, px < 64 ∧ py < 32 ∧ pixelAt f px py = false ∧ pixelAt (drawSprite f xs ys bs).fb px py = true := by
  rw [collision_drawSprite_iff hb]
  constructor
  · rintro ⟨px, py, hlands, hlit⟩
    have hoff : pixelAt f px py = false := by simpa [pixelAt_drawSprite_of_lands hb hlands] using hlit
    exact ⟨px, py, hlands.lt.1, hlands.lt.2, hoff, hlit⟩
  · rintro ⟨px, py, hx, -, hoff, hlit⟩
    have hlands : RowsLand xs ys 0 bs px py := by
      by_contra h
      rw [pixelAt_drawSprite_of_not_lands hb hx h, hoff] at hlit
      cases hlit
    exact ⟨px, py, hlands, hlit⟩

end

/-! ## DRW (R144 to R148) -/

/-- The rows that DRW reads from I on. -/
def State.spriteRows (s : State) (n : Nibble) : List Byte := Memory.readBytes s.mem s.i.toNat n.toNat

theorem State.spriteRows_length_le (s : State) (n : Nibble) : (s.spriteRows n).length ≤ 32 := by
  have hn := n.isLt
  rw [State.spriteRows, Memory.readBytes_length]
  omega

theorem State.spriteRows_getElem (s : State) (n : Nibble) (r : Nat) (hr : r < (s.spriteRows n).length) :
    (s.spriteRows n)[r] = s.readByte (s.i.toNat + r) := Memory.readBytes_getElem ..

/-- The claims' pixels of a sprite are those on which a set bit of its rows lands (R146). -/
theorem spriteSets_iff_rowsLand (s : State) (xs ys : Nat) (n : Nibble) (px py : Nat) :
    SpriteSets s xs ys n.toNat px py ↔ RowsLand xs ys 0 (s.spriteRows n) px py := by
  have hlen : (s.spriteRows n).length = n.toNat := Memory.readBytes_length ..
  constructor
  · rintro ⟨r, c, hr, hc, hbit, hx, hy⟩
    refine ⟨r, c, hc, hlen ▸ hr, ?_, hx, ?_⟩
    · rwa [State.spriteRows_getElem]
    · rwa [Nat.zero_add]
  · rintro ⟨r, c, hc, hr, hbit, hx, hy⟩
    rw [State.spriteRows_getElem] at hbit
    rw [Nat.zero_add] at hy
    exact ⟨r, c, hlen ▸ hr, hc, hbit, hx, hy⟩

/-- The drawing that DRW makes in a state. -/
def State.drawn (s : State) (x y n : Nibble) : Canvas :=
  drawSprite s.fb (s.getV x).toNat (s.getV y).toNat (s.spriteRows n)

/-- The state after a DRW that runs: the collision in VF, and the screen drawn, with its update. -/
def State.afterDraw (s : State) (x y n : Nibble) : State :=
  (s.setV regVF (flagByte (s.drawn x y n).collision)).showScreen (s.drawn x y n).fb

/-- DRW runs where its rows lie in memory, and always where it has none (R145, R148). -/
theorem exec_drw_of_le (x y n : Nibble) (s : State) (h : n.toNat = 0 ∨ s.i.toNat + n.toNat - 1 ≤ 0xFFF) :
    exec (.drw x y n) s = .next (s.afterDraw x y n) :=
  if_pos (h.imp_right fun hle => (inBounds_iff _ _).mpr (by omega))

theorem exec_drw_of_gt (x y n : Nibble) (s : State) (hn : n.toNat ≠ 0) (h : 0xFFF < s.i.toNat + n.toNat - 1) :
    exec (.drw x y n) s = .next (s.faultAt .outOfBounds (.drw x y n)) :=
  if_neg (not_or_intro hn fun hin => by rw [inBounds_iff] at hin; omega)

theorem State.getV_afterDraw_VF (s : State) (x y n : Nibble) :
    (s.afterDraw x y n).getV 0xF = flagByte (s.drawn x y n).collision := s.getV_setV_same regVF _

theorem State.getV_afterDraw_ne (s : State) (x y n : Nibble) {r : Nibble} (h : r ≠ 0xF) :
    (s.afterDraw x y n).getV r = s.getV r := s.getV_setV_ne regVF r _ h

/-- The collision output in the claims' own terms (R147). -/
theorem State.drawn_collision_iff (s : State) (x y n : Nibble) :
    (s.drawn x y n).collision = true ↔
      ∃ px py, SpriteSets s (s.getV x).toNat (s.getV y).toNat n.toNat px py ∧ fbPixel s.fb (py * 64 + px) = true := by
  rw [State.drawn, collision_drawSprite_iff (s.spriteRows_length_le n)]
  refine exists_congr fun px => exists_congr fun py => ?_
  rw [spriteSets_iff_rowsLand]
  exact and_congr_right fun hlands => by rw [fbPixel_rowMajor _ _ hlands.lt.1]

theorem flagByte_eq_one_iff (c : Bool) : flagByte c = 1 ↔ c = true := by
  cases c with
  | true => decide
  | false => decide

/-- Settles O28: the pixels and the collision are those of the rows' bits, and the two ranges are those of the bounds check. -/
theorem drawXorsTheSprite : Obligations.DrawXorsTheSprite := by
  intro x y n s
  have hword : encode (.drw x y n) = 0xD#4 ++ x ++ y ++ n := encXYN_eq 0xD x y n
  have hlen := s.spriteRows_length_le n
  refine ⟨decodeWord_of_encode_eq rfl hword, fun hrange => ?_, fun hn hrange => ?_⟩
  · refine ⟨_, exec_drw_of_le x y n s hrange, fun px py hx _ => ?pixel, fun hcoll => ?collision, fun hcoll => ?noCollision,
      fun r => s.getV_afterDraw_ne x y n, rfl⟩
    case pixel =>
      rw [spriteSets_iff_rowsLand, fbPixel_rowMajor _ _ hx, fbPixel_rowMajor _ _ hx]
      exact ⟨pixelAt_drawSprite_of_lands hlen, pixelAt_drawSprite_of_not_lands hlen hx⟩
    case collision =>
      rw [s.getV_afterDraw_VF, (s.drawn_collision_iff x y n).mpr hcoll]
      rfl
    case noCollision =>
      rw [← s.drawn_collision_iff, Bool.not_eq_true] at hcoll
      rw [s.getV_afterDraw_VF, hcoll]
      rfl
  · rw [← s.faultAt_eq_afterFault _ hword]
    exact exec_drw_of_gt x y n s hn hrange

/-- A second DRW at the same coordinates draws the same sprite, on the screen that the first one left. -/
theorem State.drawn_afterDraw (s : State) (x y n : Nibble) (hx : (s.afterDraw x y n).getV x = s.getV x)
    (hy : (s.afterDraw x y n).getV y = s.getV y) :
    (s.afterDraw x y n).drawn x y n =
      drawSprite (s.drawn x y n).fb (s.getV x).toNat (s.getV y).toNat (s.spriteRows n) := by
  rw [State.drawn, hx, hy]
  rfl

/-- Settles O29: the second draw is the first one's sprite on the first one's screen. -/
theorem drawTwiceRestoresTheScreen : Obligations.DrawTwiceRestoresTheScreen := by
  intro x y n s t hrange h hx hy
  rw [exec_drw_of_le x y n s hrange] at h
  cases h
  have hlen := s.spriteRows_length_le n
  have hdrawn := s.drawn_afterDraw x y n hx hy
  refine ⟨_, exec_drw_of_le x y n (s.afterDraw x y n) hrange, ?screen, ?collision⟩
  case screen =>
    calc ((s.afterDraw x y n).drawn x y n).fb
        _ = (drawSprite (s.drawn x y n).fb (s.getV x).toNat (s.getV y).toNat (s.spriteRows n)).fb := by rw [hdrawn]
        _ = s.fb := drawSprite_twice_fb hlen
  case collision =>
    rw [State.getV_afterDraw_VF, flagByte_eq_one_iff, hdrawn, State.drawn, drawSprite_twice_collision_iff hlen]
    refine exists_congr fun px => exists_congr fun py => and_congr_right fun hpx => ?_
    rw [fbPixel_rowMajor _ _ hpx, fbPixel_rowMajor _ _ hpx]
    rfl

end Sys2Proof.Machine

/-! PROOFS. Keys, timers, index arithmetic and block transfers (43_keys_timers_mem): the words of these instructions and what each answers,
and the bounds on which the key skips and the transfers fault (60_exceptions R204). -/

namespace Sys2Proof.Machine

/-! ## SKP and SKNP (R160 to R162) -/

/-- The skip of an untrue condition (R162). -/
theorem State.skipIf_not (s : State) (c : Bool) :
    s.skipIf (!c) = { s with pc := if c = true then s.pc else s.pc + 2 } := by
  cases c with
  | true => rfl
  | false => rfl

theorem execSkp_of_gt (x : Nibble) (s : State) (h : 15 < (s.getV x).toNat) :
    execSkp x s = .next (s.faultAt .outOfBounds (.skp x)) := by
  rw [execSkp, keyOperand_none _ h]

theorem execSknp_of_gt (x : Nibble) (s : State) (h : 15 < (s.getV x).toNat) :
    execSknp x s = .next (s.faultAt .outOfBounds (.sknp x)) := by
  rw [execSknp, keyOperand_none _ h]

theorem execSkp_of_lt (x : Nibble) (s : State) (h : (s.getV x).toNat < 16) :
    execSkp x s = .next (s.skipIf s.key[(s.getV x).toNat]) := by
  rw [execSkp, keyOperand_of_lt _ h]
  rfl

theorem execSknp_of_lt (x : Nibble) (s : State) (h : (s.getV x).toNat < 16) :
    execSknp x s = .next (s.skipIf (!s.key[(s.getV x).toNat])) := by
  rw [execSknp, keyOperand_of_lt _ h]
  rfl

/-- Settles O30: Vx names a key exactly below 16, and both skips then write PC alone, on the one key. -/
theorem keySkips : Obligations.KeySkips := by
  intro x s
  have hskp : encode (.skp x) = 0xE#4 ++ x ++ 0x9E#8 := encXNN_eq 0xE x 0x9E
  have hsknp : encode (.sknp x) = 0xE#4 ++ x ++ 0xA1#8 := encXNN_eq 0xE x 0xA1
  refine ⟨decodeWord_of_encode_eq rfl hskp, decodeWord_of_encode_eq rfl hsknp, fun h => ?noKey, ?key⟩
  case noKey =>
    rw [← s.faultAt_eq_afterFault _ hskp, ← s.faultAt_eq_afterFault _ hsknp]
    exact ⟨execSkp_of_gt x s h, execSknp_of_gt x s h⟩
  case key =>
    rintro k hk rfl
    rw [← s.skipIf_eq, ← s.skipIf_not]
    exact ⟨execSkp_of_lt x s hk, execSknp_of_lt x s hk⟩

/-! ## The timers and the key latch (R163 to R166) -/

/-- Settles O31: a write of one register. -/
theorem readDelayTimer : Obligations.ReadDelayTimer := by
  intro x s
  exact ⟨decodeWord_of_encode_eq rfl (encXNN_eq 0xF x 0x07), exec_of_setV rfl⟩

theorem execLdVxK_of_empty (x : Nibble) (s : State) (h : s.latch = none) : execLdVxK x s = .next (s.setPc (s.pc - 2)) := by
  rw [execLdVxK, h]

theorem execLdVxK_of_latched (x : Nibble) (s : State) (k : KeyCode) (h : s.latch = some k) :
    execLdVxK x s = .next ((s.setV x (keyValue k)).setLatch none) := by
  rw [execLdVxK, h]

/-- Settles O32: without a key PC alone is written; a latched key is written to one register and is then consumed. -/
theorem waitForKey : Obligations.WaitForKey := by
  intro x s
  refine ⟨decodeWord_of_encode_eq rfl (encXNN_eq 0xF x 0x0A), execLdVxK_of_empty x s, fun k h => ?_⟩
  refine ⟨_, execLdVxK_of_latched x s k h, ?_, fun r => s.getV_setV_ne x r _, rfl⟩
  rw [State.getV_setLatch, State.getV_setV_same, keyValue_toNat]

/-- Settles O33: each writes its timer alone, so no event is appended. -/
theorem setTimers : Obligations.SetTimers := by
  intro x s
  exact ⟨decodeWord_of_encode_eq rfl (encXNN_eq 0xF x 0x15), decodeWord_of_encode_eq rfl (encXNN_eq 0xF x 0x18), rfl, rfl⟩

/-! ## Index arithmetic (R167, R168) -/

/-- I + Vx as a number, the byte zero-extended (R167). -/
theorem word_add_byte_toNat (w : Word) (b : Byte) : (w + b.setWidth 16).toNat = (w.toNat + b.toNat) % 65536 := by
  rw [BitVec.toNat_add, BitVec.toNat_setWidth_of_le (by decide)]

/-- Settles O34: the sum is reduced to the 16 bits of I, the one field written. -/
theorem addToIndex : Obligations.AddToIndex := by
  intro x s
  exact ⟨decodeWord_of_encode_eq rfl (encXNN_eq 0xF x 0x1E), _, rfl, word_add_byte_toNat s.i (s.getV x), rfl⟩

/-- Settles O35: the glyph's address needs no wrap in 16 bits, so it is exact for every byte. -/
theorem indexOfGlyph : Obligations.IndexOfGlyph := by
  intro x s
  exact ⟨decodeWord_of_encode_eq rfl (encXNN_eq 0xF x 0x29), _, rfl, glyphAddr_toNat (s.getV x), rfl⟩

/-! ## Stored bytes read back (R55, R57) -/

/-- The k-th byte of a run stored in memory is read back at its place. -/
theorem State.readByte_storeBytes_of_lt (s : State) (a : Nat) (bs : List Byte) (hwf : Memory.wf s.mem = true)
    (ha : a + bs.length ≤ Config.memSize) (k : Nat) (hk : k < bs.length) :
    (s.storeBytes a bs).readByte (a + k) = bs[k] := by
  rw [State.readByte, State.storeBytes_mem, Memory.read_writeBytes _ _ _ _ hwf ha, dif_pos (by omega)]
  simp only [Nat.add_sub_cancel_left]

/-- A run of stored bytes leaves every byte outside it as it was. -/
theorem State.readByte_storeBytes_outside (s : State) (a c : Nat) (bs : List Byte) (hwf : Memory.wf s.mem = true)
    (hc : c < a ∨ a + bs.length ≤ c) : (s.storeBytes a bs).readByte c = s.readByte c := by
  rw [State.readByte, State.storeBytes_mem, Memory.read_writeBytes_outside _ _ _ _ hwf hc, State.readByte]

/-! ## LD B, Vx (R169) -/

/-- A byte has three decimal digits, the hundreds first (R169). -/
@[simp] theorem decimalDigits_length (b : Byte) : (decimalDigits b).length = 3 := rfl

theorem decimalDigits_toNat (b : Byte) :
    (decimalDigits b)[0].toNat = b.toNat / 100 ∧ (decimalDigits b)[1].toNat = b.toNat / 10 % 10 ∧
      (decimalDigits b)[2].toNat = b.toNat % 10 := by
  have hb := b.isLt
  exact ⟨Nat.mod_eq_of_lt (by omega), Nat.mod_eq_of_lt (by omega), Nat.mod_eq_of_lt (by omega)⟩

theorem exec_ldBVx_of_le (x : Nibble) (s : State) (h : s.i.toNat + 2 ≤ 0xFFF) :
    exec (.ldBVx x) s = .next (s.storeBytes s.i.toNat (decimalDigits (s.getV x))) :=
  if_pos ((inBounds_iff _ _).mpr (by omega))

theorem exec_ldBVx_of_gt (x : Nibble) (s : State) (h : 0xFFF < s.i.toNat + 2) :
    exec (.ldBVx x) s = .next (s.faultAt .outOfBounds (.ldBVx x)) :=
  if_neg ((inBounds_iff _ _).not.mpr (by omega))

/-- Settles O36: the three digits are a run of bytes from I on, and the two ranges are those of the bounds check. -/
theorem storeDecimalDigits : Obligations.StoreDecimalDigits := by
  intro x s
  have hword : encode (.ldBVx x) = 0xF#4 ++ x ++ 0x33#8 := encXNN_eq 0xF x 0x33
  refine ⟨decodeWord_of_encode_eq rfl hword, fun hwf hi => ?_, fun hi => ?_⟩
  · have hread := s.readByte_storeBytes_of_lt s.i.toNat (decimalDigits (s.getV x)) hwf
      (by rw [decimalDigits_length, Config.memSize]; omega)
    obtain ⟨hhundreds, htens, hones⟩ := decimalDigits_toNat (s.getV x)
    refine ⟨_, exec_ldBVx_of_le x s hi, ?_, ?_, ?_, fun a ha => ?_, rfl⟩
    · exact (congrArg BitVec.toNat (hread 0 (by simp))).trans hhundreds
    · exact (congrArg BitVec.toNat (hread 1 (by simp))).trans htens
    · exact (congrArg BitVec.toNat (hread 2 (by simp))).trans hones
    · exact s.readByte_storeBytes_outside _ _ _ hwf (by rw [decimalDigits_length]; omega)
  · rw [← s.faultAt_eq_afterFault _ hword]
    exact exec_ldBVx_of_gt x s hi

/-! ## LD [I], Vx (R170) -/

theorem exec_ldMemVx_of_gt (x : Nibble) (s : State) (h : 0xFFF < s.i.toNat + x.toNat) :
    exec (.ldMemVx x) s = .next (s.faultAt .outOfBounds (.ldMemVx x)) :=
  if_neg ((inBounds_iff _ _).not.mpr (by rw [blockLength]; omega))

/-- Settles O37: the block is a run of x + 1 bytes from I on, and the two ranges are those of the bounds check. -/
theorem storeRegisterBlock : Obligations.StoreRegisterBlock := by
  intro x s
  have hword : encode (.ldMemVx x) = 0xF#4 ++ x ++ 0x55#8 := encXNN_eq 0xF x 0x55
  refine ⟨decodeWord_of_encode_eq rfl hword, fun hwf hi => ?_, fun hi => ?_⟩
  · refine ⟨_, exec_ldMemVx_of_le x s hi, fun r => s.readByte_storeBytes_regBlock x r hwf hi, fun a ha => ?_, rfl⟩
    exact s.readByte_storeBytes_outside _ _ _ hwf (by rw [s.regBlock_length]; omega)
  · rw [← s.faultAt_eq_afterFault _ hword]
    exact exec_ldMemVx_of_gt x s hi

/-! ## LD Vx, [I] (R171) -/

/-- The state after a block load that runs: the bytes from I on in V0..Vx. -/
def State.afterBlockLoad (s : State) (x : Nibble) : State :=
  s.loadRegs 0 (Memory.readBytes s.mem s.i.toNat (blockLength x))

theorem exec_ldVxMem_of_le (x : Nibble) (s : State) (h : s.i.toNat + x.toNat ≤ 0xFFF) :
    exec (.ldVxMem x) s = .next (s.afterBlockLoad x) :=
  if_pos ((inBounds_iff _ _).mpr (by rw [blockLength]; omega))

theorem exec_ldVxMem_of_gt (x : Nibble) (s : State) (h : 0xFFF < s.i.toNat + x.toNat) :
    exec (.ldVxMem x) s = .next (s.faultAt .outOfBounds (.ldVxMem x)) :=
  if_neg ((inBounds_iff _ _).not.mpr (by rw [blockLength]; omega))

/-- A block load gives each register up to Vx its byte, and leaves the registers above Vx. -/
theorem State.getV_afterBlockLoad (s : State) (x r : Nibble) :
    (s.afterBlockLoad x).getV r = if r.toNat ≤ x.toNat then s.readByte (s.i.toNat + r.toNat) else s.getV r := by
  have hx := x.isLt
  have hlen : (Memory.readBytes s.mem s.i.toNat (blockLength x)).length = x.toNat + 1 := Memory.readBytes_length ..
  rw [State.afterBlockLoad, State.getV_loadRegs _ _ _ _ (by omega)]
  split
  · rw [if_pos (by omega)]
    exact Memory.readBytes_getElem ..
  · rw [if_neg (by omega)]

/-- Settles O38: the registers loaded are those up to Vx, and the two ranges are those of the bounds check. -/
theorem loadRegisterBlock : Obligations.LoadRegisterBlock := by
  intro x s
  have hword : encode (.ldVxMem x) = 0xF#4 ++ x ++ 0x65#8 := encXNN_eq 0xF x 0x65
  refine ⟨decodeWord_of_encode_eq rfl hword, fun hi => ?_, fun hi => ?_⟩
  · refine ⟨_, exec_ldVxMem_of_le x s hi, fun r hr => ?_, fun r hr => ?_, s.loadRegs_eq 0 _⟩
    · rw [s.getV_afterBlockLoad, if_pos hr]
    · rw [s.getV_afterBlockLoad, if_neg (by omega)]
  · rw [← s.faultAt_eq_afterFault _ hword]
    exact exec_ldVxMem_of_gt x s hi

end Sys2Proof.Machine

/-! PROOFS. Faults, timers and the host (60_exceptions): when an instruction faults and what its fault leaves (R201 to R208), an unknown word
(R210), what the timer activity and the host can do, said once (`OutsideStep`), the port history, which is appended to and never read (R220),
and the delay timer in a fair run (R228, R255). -/

namespace Sys2Proof.Machine

/-! ## When an instruction faults (R201 to R204, R211) -/

/-- Every instruction answers a next state in every state (R211). -/
theorem exec_eq_next (i : Instr) (s : State) : ∃ t, exec i s = .next t := by
  cases h : exec i s with
  | next t => exact ⟨t, rfl⟩
  | fault r => cases r
  | refused r => cases h ▸ exec_effect i s

/-- Where the table of R201 lists a fault, the instruction takes it. -/
theorem exec_of_faultOf {i : Instr} {s : State} {k : FaultKind} (h : faultOf s i = some k) : exec i s = .next (s.faultAt k i) := by
  cases i with
  | ret u =>
    obtain ⟨hsp, ⟨⟩⟩ := Option.ite_none_right_eq_some.mp h
    exact execRet_of_empty u s hsp
  | call nnn =>
    obtain ⟨hsp, ⟨⟩⟩ := Option.ite_none_right_eq_some.mp h
    exact execCall_of_full nnn s hsp
  | drw x y n =>
    obtain ⟨⟨hn, hi⟩, ⟨⟩⟩ := Option.ite_none_right_eq_some.mp h
    exact exec_drw_of_gt x y n s (by omega) hi
  | skp x =>
    obtain ⟨hx, ⟨⟩⟩ := Option.ite_none_right_eq_some.mp h
    exact execSkp_of_gt x s hx
  | sknp x =>
    obtain ⟨hx, ⟨⟩⟩ := Option.ite_none_right_eq_some.mp h
    exact execSknp_of_gt x s hx
  | ldBVx x =>
    obtain ⟨hi, ⟨⟩⟩ := Option.ite_none_right_eq_some.mp h
    exact exec_ldBVx_of_gt x s hi
  | ldMemVx x =>
    obtain ⟨hi, ⟨⟩⟩ := Option.ite_none_right_eq_some.mp h
    exact exec_ldMemVx_of_gt x s hi
  | ldVxMem x =>
    obtain ⟨hi, ⟨⟩⟩ := Option.ite_none_right_eq_some.mp h
    exact exec_ldVxMem_of_gt x s hi
  | _ => cases h

/-- Settles O43: a listed fault is taken, and an effect takes no other. -/
theorem instructionsFaultExactlyAsListed : Obligations.InstructionsFaultExactlyAsListed := by
  intro i s hs
  cases hlist : faultOf s i with
  | some k => exact ⟨_, exec_of_faultOf hlist, rfl⟩
  | none =>
    obtain ⟨t, h⟩ := exec_eq_next i s
    refine ⟨t, h, ?_⟩
    obtain hkept | ⟨k, hk, -⟩ := (Effect.of_exec h).fault_cases
    · rw [hkept, hs, Option.map_none]
    · cases hlist.symm.trans hk

/-! ## What a fault leaves (R206, R207) -/

/-- Settles O44: an effect that leaves a fault where none stood is the instruction's own fault. -/
theorem instructionFaultsArePrecise : Obligations.InstructionFaultsArePrecise := by
  intro i s t hs h hfault
  obtain hkept | ⟨k, -, rfl⟩ := (Effect.of_exec h).fault_cases
  · exact absurd (hkept.trans hs) hfault
  · exact ⟨k, s.faultAt_eq_afterFault k rfl⟩

/-- The fault of an instruction in a cycle is taken at the address that the cycle fetched from (R13, R206). -/
theorem State.faultAt_setPc (s : State) (k : FaultKind) (i : Instr) :
    (s.setPc (s.pc + 2)).faultAt k i = s.takeFault k s.pc (encode i) := by
  rw [State.faultAt, State.instrAddr, State.setPc_pc, BitVec.add_sub_cancel]
  rfl

/-- A CPU tick after which a new fault stands is fault entry at PC, and nothing else (R206). -/
theorem cpuTick_eq_takeFault {s t : State} (h : cpuTick s = .next t) (hs : s.fault = none) (ht : t.fault ≠ none) :
    ∃ k op, t = s.takeFault k s.pc op := by
  obtain ⟨-, rfl⟩ | ⟨-, -, rfl⟩ | ⟨op, e, -, -, -, rfl⟩ | ⟨op, i, u, -, -, -, hu, rfl⟩ := cpuTick_cases s t h
  · exact absurd hs ht
  · exact ⟨_, _, rfl⟩
  · rw [State.tracedUnlessFault_fault] at ht
    exact absurd hs ht
  · rw [State.tracedUnlessFault_fault] at ht
    obtain hkept | ⟨k, -, rfl⟩ := (Effect.of_exec hu).fault_cases
    · exact absurd (hkept.trans hs) ht
    · rw [State.tracedUnlessFault_faulted _ _ _ _ _ rfl]
      exact ⟨k, _, s.faultAt_setPc k i⟩

/-- Settles O45: the step's CPU tick is fault entry, which records PC. -/
theorem faultingStepChangesOnlyFault : Obligations.FaultingStepChangesOnlyFault := by
  intro s t f hcpu hs h hf
  rw [step_eq, hcpu] at h
  obtain ⟨k, op, rfl⟩ := cpuTick_eq_takeFault (s := s.dequeue) h hs (hf ▸ Option.some_ne_none f)
  cases hf
  exact ⟨rfl, rfl⟩

/-! ## An unknown word (R210) -/

/-- One cycle at a word that decodes to no operation: PC advances, and the word leaves its trace line (R210). -/
theorem State.cycle_of_unknown {s : State} {op : Word} {e : DecodeError} (hfetch : s.fetch = some op)
    (hdec : decodeWord op = .error e) : s.cycle = .next ((s.setPc (s.pc + 2)).afterTrace "unknown" s.pc op) := by
  simp only [State.cycle, State.runWord, hfetch, hdec, State.tracedUnlessFault_eq]

/-- Settles O7: the tick's cycle fetches the unknown word. -/
theorem unknownWordIsNoOperation : Obligations.UnknownWordIsNoOperation := by
  intro s e hrun hfault hpc hdec
  exact (cpuTick_of_running s hrun hfault).trans (State.cycle_of_unknown (s.fetch_of_le hpc) hdec)

/-! ## The host's key calls (R233, R234) -/

theorem pressKey_of_lt (s : State) {code : Nat} (h : code < 16) :
    pressKey code s = .next ((s.setKeyState ⟨code, h⟩ true).setLatch (some ⟨code, h⟩)) :=
  dif_pos h

theorem pressKey_of_ge (s : State) {code : Nat} (h : 15 < code) : pressKey code s = .refused (.keyCodeOutsideContract code) :=
  dif_neg (by omega)

theorem releaseKey_of_lt (s : State) {code : Nat} (h : code < 16) : releaseKey code s = .next (s.setKeyState ⟨code, h⟩ false) :=
  dif_pos h

theorem releaseKey_of_ge (s : State) {code : Nat} (h : 15 < code) : releaseKey code s = .refused (.keyCodeOutsideContract code) :=
  dif_neg (by omega)

/-- A write of one key is read back, and leaves every other key (R37). -/
theorem State.setKeyState_key_getElem (s : State) (k : KeyCode) (b : Bool) :
    (s.setKeyState k b).key[k.val] = b ∧
      ∀ (j : Nat) (hj : j < 16), j ≠ k.val → (s.setKeyState k b).key[j] = s.key[j] :=
  ⟨Vector.getElem_set_self k.isLt, fun _ hj hne => Vector.getElem_set_ne k.isLt hj hne.symm⟩

/-- Settles O51: inside the port contract each call writes its one key, and setKey the latch. -/
theorem hostKeyCalls : Obligations.HostKeyCalls := by
  refine fun s => ⟨fun k hk => ⟨?_, ?_⟩, fun k hk => ⟨pressKey_of_ge s hk, releaseKey_of_ge s hk⟩⟩
  · obtain ⟨hself, hother⟩ := s.setKeyState_key_getElem ⟨k, hk⟩ true
    exact ⟨_, pressKey_of_lt s hk, hself, hother, rfl⟩
  · obtain ⟨hself, hother⟩ := s.setKeyState_key_getElem ⟨k, hk⟩ false
    exact ⟨_, releaseKey_of_lt s hk, hself, hother, rfl⟩

/-! ## stop, resume and the trace switch (R39, R231, R232) -/

/-- Settles O50: each call is the write of its one field. -/
theorem hostControls : Obligations.HostControls :=
  fun _ => ⟨rfl, rfl, fun _ => rfl⟩

/-! ## loadRom (R205, R230, R240) -/

/-- The state that a load starts from: stopped, and every field of R20 reset (R230). -/
def State.cleared (s : State) : State := (s.setRunning false).resetFields

/-- The state after a load that fits: the ROM's bytes from 0x200 on, and running (R230). -/
def State.withRom (s : State) (bytes : List Byte) : State := (s.cleared.storeBytes Config.loadAddr bytes).setRunning true

/-- The state after a load that does not fit (R205). -/
def State.romRefused (s : State) : State := s.cleared.takeFault .romTooLarge 0x200 0

theorem loadRom_of_le (s : State) {bytes : List Byte} (h : bytes.length ≤ 3584) : loadRom bytes s = .next (s.withRom bytes) :=
  if_neg (Nat.not_lt.mpr h)

theorem loadRom_of_gt (s : State) {bytes : List Byte} (h : 3584 < bytes.length) : loadRom bytes s = .next s.romRefused :=
  if_pos h

/-- The values that a load gives the fields beside memory, RUNNING and FAULT (R230, R240). -/
def State.IsCleared (t : State) : Prop :=
  (∀ r, t.getV r = 0) ∧ t.i = 0 ∧ t.pc = 0x200 ∧ t.sp = 0 ∧ (∀ (k : Nat) (hk : k < 16), t.stack[k] = 0) ∧ t.dt = 0 ∧ t.st = 0 ∧
    (∀ (k : Nat) (hk : k < 16), t.key[k] = false) ∧ t.latch = none ∧ ∀ p, p < 2048 → fbPixel t.fb p = false

theorem State.cleared_isCleared (s : State) : s.cleared.IsCleared :=
  ⟨fun r => Vector.getElem_replicate r.isLt, rfl, rfl, rfl, fun _ hk => Vector.getElem_replicate hk, rfl, rfl,
    fun _ hk => Vector.getElem_replicate hk, rfl, fun p _ => fbPixel_replicate_zero p⟩

/-- Settles O49: both loads start from the cleared state; one writes memory and RUNNING, the other is fault entry. -/
theorem loadRomResetsAndLoads : Obligations.LoadRomResetsAndLoads := by
  intro bytes s
  obtain ⟨hv, hi, hpc, hsp, hstack, hdt, hst, hkey, hlatch, hfb⟩ := s.cleared_isCleared
  by_cases hfits : bytes.length ≤ 3584
  · have hroom : Config.loadAddr + bytes.length ≤ Config.memSize := by
      rw [Config.loadAddr, Config.memSize]
      omega
    refine ⟨_, loadRom_of_le s hfits, ⟨hv, hi, hpc, hsp, hstack, hdt, hst, hkey, hlatch, hfb, rfl⟩, fun _ => ?_, fun hlong => ?_⟩
    · exact ⟨rfl, rfl, rfl, s.cleared.readByte_storeBytes_of_lt _ bytes Memory.wf_nil hroom,
        fun a ha => s.cleared.readByte_storeBytes_outside _ a bytes Memory.wf_nil ha⟩
    · omega
  · refine ⟨_, loadRom_of_gt s (Nat.not_le.mp hfits), ⟨hv, hi, rfl, hsp, hstack, hdt, hst, hkey, hlatch, hfb, rfl⟩,
      fun h => absurd h hfits, fun _ => ?_⟩
    exact ⟨rfl, rfl, rfl, fun _ => rfl⟩

/-! ## The timer activity (R222, R226) -/

theorem State.tickTimers_dt_toNat (s : State) : s.tickTimers.dt.toNat = s.dt.toNat - 1 := countDown_toNat s.dt

theorem State.tickTimers_st_toNat (s : State) : s.tickTimers.st.toNat = s.st.toNat - 1 := countDown_toNat s.st

/-- The events that a timer tick emits (R222). -/
theorem State.tickTimers_history_append (s : State) :
    s.tickTimers.history = s.history ++ if s.st = 0 then [] else [.audioTrigger] := by
  rw [s.tickTimers_history]
  split
  · rw [List.append_nil]
  · rfl

/-- Settles O47: the tick of a running machine is `tickTimers`. -/
theorem timerTickCountsDown : Obligations.TimerTickCountsDown := fun s hrun =>
  ⟨_, timerTick_of_running s hrun, s.tickTimers_dt_toNat, s.tickTimers_st_toNat, s.tickTimers_history_append, rfl⟩

/-! ### Many ticks -/

/-- The timer activity by itself, from any state of reset. -/
def timerActivity (r : State) : Host.Core where
  State := State
  Fault := Fault
  Refusal := Refusal
  step := agentStep .timerTick
  reset := r

/-- A run whose first step answers a next state goes on from there. -/
theorem core_run_succ_of_step {M : Host.Core} {s t : M.State} (h : M.step s = .next t) (n : Nat) : M.run (n + 1) s = M.run n t := by
  rw [Host.Core.run, h]

/-- Where RUNNING is true, n steps of the timer activity are n ticks. -/
theorem timerActivity_run (r : State) (n : Nat) {s : State} (hrun : s.running = true) :
    (timerActivity r).run n s = .next (State.tickTimers^[n] s) := by
  induction n generalizing s with
  | zero => rfl
  | succ n ih =>
    have hstep : (timerActivity r).step s = .next s.tickTimers := timerTick_of_running s hrun
    exact (core_run_succ_of_step hstep n).trans (ih hrun)

theorem State.tickTimers_iterate_dt (s : State) (n : Nat) : (State.tickTimers^[n] s).dt.toNat = s.dt.toNat - n := by
  induction n with
  | zero => rfl
  | succ n ih => rw [Function.iterate_succ_apply', State.tickTimers_dt_toNat, ih, Nat.sub_sub]

theorem State.tickTimers_iterate_st (s : State) (n : Nat) : (State.tickTimers^[n] s).st.toNat = s.st.toNat - n := by
  induction n with
  | zero => rfl
  | succ n ih => rw [Function.iterate_succ_apply', State.tickTimers_st_toNat, ih, Nat.sub_sub]

/-- The tick after n ticks finds ST at 0 exactly where n ticks have run it down. -/
theorem State.tickTimers_iterate_st_eq_zero_iff (s : State) (n : Nat) : (State.tickTimers^[n] s).st = 0 ↔ s.st.toNat ≤ n := by
  rw [← BitVec.toNat_inj, s.tickTimers_iterate_st]
  exact Nat.sub_eq_zero_iff_le

/-- Each tick that finds ST above 0 emits one trigger (R222). -/
theorem State.tickTimers_iterate_history (s : State) (n : Nat) :
    (State.tickTimers^[n] s).history = s.history ++ List.replicate (min n s.st.toNat) .audioTrigger := by
  induction n with
  | zero =>
    rw [Nat.zero_min, List.replicate_zero, List.append_nil]
    rfl
  | succ n ih =>
    rw [Function.iterate_succ_apply', State.tickTimers_history_append, ih, List.append_assoc]
    congr 1
    by_cases hst : s.st.toNat ≤ n
    · rw [if_pos ((s.tickTimers_iterate_st_eq_zero_iff n).mpr hst), Nat.min_eq_right hst, Nat.min_eq_right (by omega),
        List.append_nil]
    · rw [if_neg (mt (s.tickTimers_iterate_st_eq_zero_iff n).mp hst), Nat.min_eq_left (by omega), Nat.min_eq_left (by omega),
        List.replicate_succ']

/-- Ticks write the timers and the port history alone. -/
theorem State.tickTimers_iterate_frame (s : State) (n : Nat) :
    ∃ dt st history, State.tickTimers^[n] s = { s with dt := dt, st := st, history := history } := by
  induction n with
  | zero => exact ⟨_, _, _, rfl⟩
  | succ n ih =>
    obtain ⟨dt, st, history, h⟩ := ih
    rw [Function.iterate_succ_apply', h]
    exact ⟨_, _, _, rfl⟩

/-- Settles O48: n steps of the activity are n ticks, each of which counts down by one. -/
theorem timersDecay : Obligations.TimersDecay := by
  intro n s hrun
  refine ⟨_, timerActivity_run s n hrun, s.tickTimers_iterate_dt n, s.tickTimers_iterate_st n, s.tickTimers_iterate_history n, ?_⟩
  obtain ⟨dt, st, history, h⟩ := s.tickTimers_iterate_frame n
  rw [h]

/-! ## What the timer activity and the host can do (R226, R230 to R235) -/

/-- The next states of the agents other than the CPU activity, one constructor per outcome of an agent's step. -/
inductive OutsideStep (s : State) : AgentStep → State → Prop where
  /-- The timer activity has no step (R227). -/
  | idle (h : s.running = false) : OutsideStep s .timerTick s
  /-- A timer tick (R226). -/
  | tick (h : s.running = true) : OutsideStep s .timerTick s.tickTimers
  /-- A load that fits (R230). -/
  | load (bytes : List Byte) (h : bytes.length ≤ 3584) : OutsideStep s (.loadRom bytes) (s.withRom bytes)
  /-- A load that does not fit (R205). -/
  | refuseRom (bytes : List Byte) (h : 3584 < bytes.length) : OutsideStep s (.loadRom bytes) s.romRefused
  /-- R231. -/
  | stop : OutsideStep s .stop (s.setRunning false)
  /-- R232. -/
  | resume : OutsideStep s .resume (s.setRunning true)
  /-- A key press inside the port contract (R233). -/
  | press (k : KeyCode) : OutsideStep s (.setKey k.val) ((s.setKeyState k true).setLatch (some k))
  /-- A key release inside the port contract (R234). -/
  | release (k : KeyCode) : OutsideStep s (.clearKey k.val) (s.setKeyState k false)
  /-- A change of TRACE_ENABLED (R39). -/
  | setTrace (on : Bool) : OutsideStep s (.setTrace on) { s with traceEnabled := on }

theorem OutsideStep.of_timerTick {s t : State} (h : timerTick s = .next t) : OutsideStep s .timerTick t := by
  cases hrun : s.running with
  | true =>
    cases (timerTick_of_running s hrun).symm.trans h
    exact .tick hrun
  | false =>
    cases (timerTick_of_not_running s hrun).symm.trans h
    exact .idle hrun

theorem OutsideStep.of_loadRom {bytes : List Byte} {s t : State} (h : loadRom bytes s = .next t) : OutsideStep s (.loadRom bytes) t := by
  by_cases hfits : bytes.length ≤ 3584
  · cases (loadRom_of_le s hfits).symm.trans h
    exact .load bytes hfits
  · cases (loadRom_of_gt s (Nat.not_le.mp hfits)).symm.trans h
    exact .refuseRom bytes (Nat.not_le.mp hfits)

theorem OutsideStep.of_pressKey {code : Nat} {s t : State} (h : pressKey code s = .next t) : OutsideStep s (.setKey code) t := by
  by_cases hcode : code < 16
  · cases (pressKey_of_lt s hcode).symm.trans h
    exact .press ⟨code, hcode⟩
  · cases (pressKey_of_ge s (by omega)).symm.trans h

theorem OutsideStep.of_releaseKey {code : Nat} {s t : State} (h : releaseKey code s = .next t) : OutsideStep s (.clearKey code) t := by
  by_cases hcode : code < 16
  · cases (releaseKey_of_lt s hcode).symm.trans h
    exact .release ⟨code, hcode⟩
  · cases (releaseKey_of_ge s (by omega)).symm.trans h

/-- A step of any agent but the CPU activity has one of these outcomes. -/
theorem OutsideStep.of_agentStep {e : AgentStep} {s t : State} (h : agentStep e s = .next t) (he : e ≠ .cpuTick) :
    OutsideStep s e t := by
  cases e with
  | cpuTick => exact absurd rfl he
  | timerTick => exact .of_timerTick h
  | loadRom bytes => exact .of_loadRom h
  | stop =>
    cases h
    exact .stop
  | resume =>
    cases h
    exact .resume
  | setKey code => exact .of_pressKey h
  | clearKey code => exact .of_releaseKey h
  | setTrace on =>
    cases h
    exact .setTrace on

/-! ## A standing fault (R206, R208) -/

/-- `t` holds the fault and the program's state of `s` (R208). -/
def State.SameProgram (s t : State) : Prop :=
  t.fault = s.fault ∧ t.v = s.v ∧ t.i = s.i ∧ t.pc = s.pc ∧ t.sp = s.sp ∧ t.stack = s.stack ∧ t.mem = s.mem ∧ t.fb = s.fb

theorem State.SameProgram.refl (s : State) : s.SameProgram s := ⟨rfl, rfl, rfl, rfl, rfl, rfl, rfl, rfl⟩

/-- Of the agents other than the CPU activity, only a loadRom touches the fault or the program's state (R208). -/
theorem OutsideStep.sameProgram {e : AgentStep} {s t : State} (h : OutsideStep s e t) (he : ∀ bytes, e ≠ .loadRom bytes) :
    s.SameProgram t := by
  cases h with
  | load bytes | refuseRom bytes => exact absurd rfl (he bytes)
  | idle | tick | stop | resume | press | release | setTrace => exact .refl s

/-- Where a fault stands, no step but a loadRom touches it or the program's state: the CPU activity has no step (R40). -/
theorem agentStep_sameProgram {e : AgentStep} {s t : State} (h : agentStep e s = .next t) (hs : s.fault ≠ none)
    (he : ∀ bytes, e ≠ .loadRom bytes) : s.SameProgram t := by
  by_cases hcpu : e = .cpuTick
  · subst hcpu
    cases (cpuTick_of_not_enabled s (s.cpuEnabled_eq_false_iff.mpr (.inr hs))).symm.trans h
    exact .refl s
  · exact (OutsideStep.of_agentStep h hcpu).sameProgram he

/-- Settles O46: taking the step's entry from the schedule touches neither. -/
theorem faultIsSticky : Obligations.FaultIsSticky := by
  intro s t f hs he h
  have hdeq : s.dequeue.fault ≠ none := hs ▸ Option.some_ne_none f
  obtain ⟨hfault, hrest⟩ := agentStep_sameProgram h hdeq he
  exact ⟨hfault.trans hs, hrest⟩

/-! ## The port history (R220) -/

/-- The state with another port history. -/
def State.withHistory (s : State) (h : List PortEvent) : State := { s with history := h }

/-- Two answers that are one and the same but for the port history: `g` in the first and `h` in the second, with the same events after
each. -/
inductive SameBesideHistory (g h : List PortEvent) : Result → Result → Prop where
  /-- Both answer the next state `t`, with `new` appended to the port history of each. -/
  | next (t : State) (h' new : List PortEvent) (hg : t.history = g ++ new) (hh : h' = h ++ new) :
      SameBesideHistory g h (.next t) (.next (t.withHistory h'))
  /-- Both are refused for one reason. -/
  | refused (r : Refusal) : SameBesideHistory g h (.refused r) (.refused r)

namespace SameBesideHistory

variable {g h : List PortEvent}

/-- An answer that emits nothing. -/
theorem silent {t : State} (hg : t.history = g) : SameBesideHistory g h (.next t) (.next (t.withHistory h)) :=
  .next t h [] (hg.trans (List.append_nil g).symm) (List.append_nil h).symm

/-- An answer that emits one event. -/
theorem emits {t : State} (e : PortEvent) (hg : t.history = g ++ [e]) :
    SameBesideHistory g h (.next t) (.next (t.withHistory (h ++ [e]))) :=
  .next t _ [e] hg rfl

/-- Answers that are the same beside the histories `g` and `h`, and of which the first is a next state. -/
theorem eq_next {t : State} {r : Result} (hs : SameBesideHistory g h (.next t) r) :
    ∃ new, t.history = g ++ new ∧ r = .next (t.withHistory (h ++ new)) := by
  cases hs with
  | next _ h' new hg hh => exact ⟨new, hg, hh ▸ rfl⟩

end SameBesideHistory

theorem State.skipIf_withHistory (s : State) (c : Bool) (h : List PortEvent) :
    (s.withHistory h).skipIf c = (s.skipIf c).withHistory h := by
  rw [State.skipIf_eq, State.skipIf_eq]
  rfl

theorem State.loadRegs_withHistory (s : State) (k : Nat) (bs : List Byte) (h : List PortEvent) :
    (s.withHistory h).loadRegs k bs = (s.loadRegs k bs).withHistory h := by
  induction bs generalizing s k with
  | nil => rfl
  | cons b bs ih => exact ih (s.setV (BitVec.ofNat 4 k) b) (k + 1)

/-- The table of R201 reads nothing of the port history. -/
theorem faultOf_withHistory (s : State) (h : List PortEvent) (i : Instr) : faultOf (s.withHistory h) i = faultOf s i := rfl

/-! ### Every instruction -/

section

variable (s : State) (h : List PortEvent)

/-- The answers of `i` from a state and from the same state with another port history agree. -/
abbrev ExecSame (i : Instr) : Prop := SameBesideHistory s.history h (exec i s) (exec i (s.withHistory h))

variable {s h}

/-- An instruction whose answers are known and emit nothing. -/
theorem ExecSame.of_silent {i : Instr} {t : State} (hs : exec i s = .next t) (ht : t.history = s.history)
    (hw : exec i (s.withHistory h) = .next (t.withHistory h)) : ExecSame s h i := by
  rw [ExecSame, hs, hw]
  exact .silent ht

/-- An instruction whose answers are known and emit one event. -/
theorem ExecSame.of_emits {i : Instr} {t : State} (e : PortEvent) (hs : exec i s = .next t) (ht : t.history = s.history ++ [e])
    (hw : exec i (s.withHistory h) = .next (t.withHistory (h ++ [e]))) : ExecSame s h i := by
  rw [ExecSame, hs, hw]
  exact .emits e ht

/-- A fault reports PC and the instruction's word, whatever the port history (R206). -/
theorem ExecSame.of_faultOf {i : Instr} {k : FaultKind} (hk : faultOf s i = some k) : ExecSame s h i :=
  .of_emits (.faultReport k s.instrAddr (encode i)) (exec_of_faultOf hk) rfl
    (exec_of_faultOf ((faultOf_withHistory s h i).trans hk))

/-- A conditional skip emits nothing. -/
theorem ExecSame.of_skip {i : Instr} {c : Bool} (hs : exec i s = .next (s.skipIf c))
    (hw : exec i (s.withHistory h) = .next ((s.withHistory h).skipIf c)) : ExecSame s h i :=
  .of_silent hs (s.skipIf_history c) (hw.trans (congrArg _ (s.skipIf_withHistory c h)))

/-- A condition whose fault is not taken does not hold. -/
theorem not_of_ite_some_eq_none {p : Prop} [Decidable p] {k : FaultKind} (hf : (if p then some k else none) = none) : ¬p :=
  fun hp => Option.some_ne_none k ((if_pos hp).symm.trans hf)

/-! The instructions with more than one answer, where the table of R201 lists no fault. -/

theorem execSame_ret (u : Nibble) (hf : faultOf s (.ret u) = none) : ExecSame s h (.ret u) := by
  have hsp : s.sp.val = (s.sp.val - 1) + 1 := by
    have hnot := not_of_ite_some_eq_none hf
    omega
  have hk : s.sp.val - 1 < 16 := by omega
  exact .of_silent (execRet_of_succ u s _ hk hsp) rfl (execRet_of_succ u (s.withHistory h) _ hk hsp)

theorem execSame_call (nnn : Addr12) (hf : faultOf s (.call nnn) = none) : ExecSame s h (.call nnn) := by
  have hsp : s.sp.val < 16 := by
    have hnot := not_of_ite_some_eq_none hf
    omega
  exact .of_silent (execCall_of_lt nnn s hsp) rfl (execCall_of_lt nnn (s.withHistory h) hsp)

theorem execSame_drw (x y n : Nibble) (hf : faultOf s (.drw x y n) = none) : ExecSame s h (.drw x y n) := by
  have hi : n.toNat = 0 ∨ s.i.toNat + n.toNat - 1 ≤ 0xFFF := by
    have hnot := not_of_ite_some_eq_none hf
    omega
  exact .of_emits (.framebufferUpdate (s.drawn x y n).fb) (exec_drw_of_le x y n s hi) rfl
    (exec_drw_of_le x y n (s.withHistory h) hi)

theorem execSame_skp (x : Nibble) (hf : faultOf s (.skp x) = none) : ExecSame s h (.skp x) := by
  have hx : (s.getV x).toNat < 16 := by
    have hnot := not_of_ite_some_eq_none hf
    omega
  exact .of_skip (execSkp_of_lt x s hx) (execSkp_of_lt x (s.withHistory h) hx)

theorem execSame_sknp (x : Nibble) (hf : faultOf s (.sknp x) = none) : ExecSame s h (.sknp x) := by
  have hx : (s.getV x).toNat < 16 := by
    have hnot := not_of_ite_some_eq_none hf
    omega
  exact .of_skip (execSknp_of_lt x s hx) (execSknp_of_lt x (s.withHistory h) hx)

theorem execSame_ldVxK (x : Nibble) : ExecSame s h (.ldVxK x) := by
  cases hk : s.latch with
  | none => exact .of_silent (execLdVxK_of_empty x s hk) rfl (execLdVxK_of_empty x (s.withHistory h) hk)
  | some k => exact .of_silent (execLdVxK_of_latched x s k hk) rfl (execLdVxK_of_latched x (s.withHistory h) k hk)

theorem execSame_ldBVx (x : Nibble) (hf : faultOf s (.ldBVx x) = none) : ExecSame s h (.ldBVx x) := by
  have hi : s.i.toNat + 2 ≤ 0xFFF := by
    have hnot := not_of_ite_some_eq_none hf
    omega
  exact .of_silent (exec_ldBVx_of_le x s hi) rfl (exec_ldBVx_of_le x (s.withHistory h) hi)

theorem execSame_ldMemVx (x : Nibble) (hf : faultOf s (.ldMemVx x) = none) : ExecSame s h (.ldMemVx x) := by
  have hi : s.i.toNat + x.toNat ≤ 0xFFF := by
    have hnot := not_of_ite_some_eq_none hf
    omega
  exact .of_silent (exec_ldMemVx_of_le x s hi) rfl (exec_ldMemVx_of_le x (s.withHistory h) hi)

theorem execSame_ldVxMem (x : Nibble) (hf : faultOf s (.ldVxMem x) = none) : ExecSame s h (.ldVxMem x) := by
  have hi : s.i.toNat + x.toNat ≤ 0xFFF := by
    have hnot := not_of_ite_some_eq_none hf
    omega
  exact .of_silent (exec_ldVxMem_of_le x s hi) (s.loadRegs_history ..)
    ((exec_ldVxMem_of_le x (s.withHistory h) hi).trans (congrArg _ (s.loadRegs_withHistory ..)))

end

/-- The execute phase reads nothing of the port history (R220). -/
theorem execSame (s : State) (h : List PortEvent) (i : Instr) : ExecSame s h i := by
  cases hf : faultOf s i with
  | some k => exact .of_faultOf hf
  | none =>
    cases i with
    | ret u => exact execSame_ret u hf
    | call nnn => exact execSame_call nnn hf
    | drw x y n => exact execSame_drw x y n hf
    | skp x => exact execSame_skp x hf
    | sknp x => exact execSame_sknp x hf
    | ldVxK x => exact execSame_ldVxK x
    | ldBVx x => exact execSame_ldBVx x hf
    | ldMemVx x => exact execSame_ldMemVx x hf
    | ldVxMem x => exact execSame_ldVxMem x hf
    | seImm x nn | sneImm x nn => exact .of_skip rfl rfl
    | seReg x y | sneReg x y => exact .of_skip rfl rfl
    | cls u => exact .of_emits (.framebufferUpdate _) rfl rfl rfl
    | sys nnn | jp nnn | jpV0 nnn | ldI nnn => exact .of_silent rfl rfl rfl
    | ldImm x nn | addImm x nn | rnd x nn => exact .of_silent rfl rfl rfl
    | ldReg x y | orReg x y | andReg x y | xorReg x y => exact .of_silent rfl rfl rfl
    | addReg x y | sub x y | shr x y | subn x y | shl x y => exact .of_silent rfl rfl rfl
    | ldVxDt x | ldDtVx x | ldStVx x | addIVx x | ldFVx x => exact .of_silent rfl rfl rfl

/-! ### Every agent -/

theorem State.afterTrace_of_on {s : State} (h : s.traceEnabled = true ∧ s.fault = none) (kind : String) (a op : Word) :
    s.afterTrace kind a op = { s with
      history := s.history ++ [.trace ⟨Config.hostClock s.stamps, Config.traceText kind a op⟩], stamps := s.stamps + 1 } :=
  if_pos h

theorem State.afterTrace_of_off {s : State} (h : ¬(s.traceEnabled = true ∧ s.fault = none)) (kind : String) (a op : Word) :
    s.afterTrace kind a op = s :=
  if_neg h

/-- A trace line appends the same events to every port history (R223). -/
theorem State.tracedUnlessFault_withHistory (s : State) (kind : String) (a op : Word) :
    ∃ new, ∀ h, (s.withHistory h).tracedUnlessFault kind a op = (s.tracedUnlessFault kind a op).withHistory (h ++ new) := by
  simp only [State.tracedUnlessFault_eq]
  by_cases hline : s.traceEnabled = true ∧ s.fault = none
  · refine ⟨[.trace ⟨Config.hostClock s.stamps, Config.traceText kind a op⟩], fun h => ?_⟩
    rw [State.afterTrace_of_on hline, State.afterTrace_of_on (s := s.withHistory h) hline]
    rfl
  · refine ⟨[], fun h => ?_⟩
    rw [State.afterTrace_of_off hline, State.afterTrace_of_off (s := s.withHistory h) hline, List.append_nil]

namespace SameBesideHistory

variable {g h : List PortEvent}

/-- Answers that agree still do after the trace line of a step. -/
theorem traced {t : State} {h' new : List PortEvent} (hg : t.history = g ++ new) (hh : h' = h ++ new) (kind : String) (a op : Word) :
    SameBesideHistory g h (.next (t.tracedUnlessFault kind a op)) (.next ((t.withHistory h').tracedUnlessFault kind a op)) := by
  obtain ⟨line, hline⟩ := t.tracedUnlessFault_withHistory kind a op
  have happend : (t.tracedUnlessFault kind a op).history = t.history ++ line := congrArg State.history (hline t.history)
  rw [hline]
  refine .next _ _ (new ++ line) ?_ ?_
  · rw [happend, hg, List.append_assoc]
  · rw [hh, List.append_assoc]

end SameBesideHistory

theorem State.runWord_sameBesideHistory (s : State) (h : List PortEvent) (a op : Word) :
    SameBesideHistory s.history h (s.runWord a op) ((s.withHistory h).runWord a op) := by
  unfold State.runWord
  cases decodeWord op with
  | error e => exact .traced (List.append_nil _).symm (List.append_nil _).symm _ a op
  | ok i =>
    obtain ⟨t, ht⟩ := exec_eq_next i s
    have hsame := execSame s h i
    rw [ExecSame, ht] at hsame
    obtain ⟨new, hg, hw⟩ := hsame.eq_next
    dsimp only
    rw [ht, hw]
    exact .traced hg rfl i.mnemonic a op

theorem State.cycle_of_fetch_some (s : State) {op : Word} (h : s.fetch = some op) :
    s.cycle = (s.setPc (s.pc + 2)).runWord s.pc op := by
  rw [State.cycle, h]

theorem State.cycle_sameBesideHistory (s : State) (h : List PortEvent) :
    SameBesideHistory s.history h s.cycle (s.withHistory h).cycle := by
  cases hfetch : s.fetch with
  | none =>
    rw [s.cycle_of_fetch_none hfetch, (s.withHistory h).cycle_of_fetch_none hfetch]
    exact .emits (.faultReport .outOfBounds s.pc 0) rfl
  | some op =>
    rw [s.cycle_of_fetch_some hfetch, (s.withHistory h).cycle_of_fetch_some hfetch]
    exact (s.setPc (s.pc + 2)).runWord_sameBesideHistory h s.pc op

theorem cpuTick_sameBesideHistory (s : State) (h : List PortEvent) :
    SameBesideHistory s.history h (cpuTick s) (cpuTick (s.withHistory h)) := by
  cases hen : s.cpuEnabled with
  | true =>
    rw [cpuTick, if_pos hen, cpuTick, if_pos (show (s.withHistory h).cpuEnabled = true from hen)]
    exact s.cycle_sameBesideHistory h
  | false =>
    rw [cpuTick_of_not_enabled s hen, cpuTick_of_not_enabled (s.withHistory h) hen]
    exact .silent rfl

/-- A tick appends its trigger, or nothing, to every port history (R222). -/
theorem State.tickTimers_withHistory (s : State) (h : List PortEvent) :
    (s.withHistory h).tickTimers = s.tickTimers.withHistory (h ++ if s.st = 0 then [] else [.audioTrigger]) :=
  congrArg s.tickTimers.withHistory (s.withHistory h).tickTimers_history_append

theorem timerTick_sameBesideHistory (s : State) (h : List PortEvent) :
    SameBesideHistory s.history h (timerTick s) (timerTick (s.withHistory h)) := by
  cases hrun : s.running with
  | true =>
    rw [timerTick_of_running s hrun, timerTick_of_running (s.withHistory h) hrun, s.tickTimers_withHistory]
    exact .next _ _ _ s.tickTimers_history_append rfl
  | false =>
    rw [timerTick_of_not_running s hrun, timerTick_of_not_running (s.withHistory h) hrun]
    exact .silent rfl

theorem loadRom_sameBesideHistory (bytes : List Byte) (s : State) (h : List PortEvent) :
    SameBesideHistory s.history h (loadRom bytes s) (loadRom bytes (s.withHistory h)) := by
  by_cases hfits : bytes.length ≤ 3584
  · rw [loadRom_of_le s hfits, loadRom_of_le (s.withHistory h) hfits]
    exact .silent rfl
  · rw [loadRom_of_gt s (Nat.not_le.mp hfits), loadRom_of_gt (s.withHistory h) (Nat.not_le.mp hfits)]
    exact .emits (.faultReport .romTooLarge 0x200 0) rfl

theorem pressKey_sameBesideHistory (code : Nat) (s : State) (h : List PortEvent) :
    SameBesideHistory s.history h (pressKey code s) (pressKey code (s.withHistory h)) := by
  by_cases hcode : code < 16
  · rw [pressKey_of_lt s hcode, pressKey_of_lt (s.withHistory h) hcode]
    exact .silent rfl
  · rw [pressKey_of_ge s (by omega), pressKey_of_ge (s.withHistory h) (by omega)]
    exact .refused _

theorem releaseKey_sameBesideHistory (code : Nat) (s : State) (h : List PortEvent) :
    SameBesideHistory s.history h (releaseKey code s) (releaseKey code (s.withHistory h)) := by
  by_cases hcode : code < 16
  · rw [releaseKey_of_lt s hcode, releaseKey_of_lt (s.withHistory h) hcode]
    exact .silent rfl
  · rw [releaseKey_of_ge s (by omega), releaseKey_of_ge (s.withHistory h) (by omega)]
    exact .refused _

/-- No agent's step reads the port history (R220). -/
theorem agentStep_sameBesideHistory (e : AgentStep) (s : State) (h : List PortEvent) :
    SameBesideHistory s.history h (agentStep e s) (agentStep e (s.withHistory h)) := by
  cases e with
  | cpuTick => exact cpuTick_sameBesideHistory s h
  | timerTick => exact timerTick_sameBesideHistory s h
  | loadRom bytes => exact loadRom_sameBesideHistory bytes s h
  | setKey code => exact pressKey_sameBesideHistory code s h
  | clearKey code => exact releaseKey_sameBesideHistory code s h
  | stop | resume | setTrace on => exact .silent rfl

/-- Settles O53: neither the choice of the step nor the step reads the port history. -/
theorem historyIsAppendedAndNeverRead : Obligations.HistoryIsAppendedAndNeverRead := by
  intro s t h hstep
  have hsame := agentStep_sameBesideHistory s.nextAgent s.dequeue h
  rw [← step_eq, hstep] at hsame
  exact hsame.eq_next

/-! ## The delay timer in a fair run (R228, R255) -/

/-- Outside the CPU activity DT never rises (R33). -/
theorem OutsideStep.dt_le {e : AgentStep} {s t : State} (h : OutsideStep s e t) : t.dt.toNat ≤ s.dt.toNat := by
  cases h with
  | tick => exact s.tickTimers_dt_toNat ▸ Nat.sub_le ..
  | load | refuseRom => exact Nat.zero_le _
  | idle | stop | resume | press | release | setTrace => exact le_rfl

section

variable {ev : Nat → AgentStep} {run : Nat → State} {start : Nat}

/-- DT never rises in a run from a point after which no CPU tick changes it. -/
theorem IsRun.dt_antitone (hrun : IsRun ev run) (hcpu : ∀ n, start ≤ n → ev n = .cpuTick → (run (n + 1)).dt = (run n).dt)
    {n m : Nat} (hn : start ≤ n) (hnm : n ≤ m) : (run m).dt.toNat ≤ (run n).dt.toNat := by
  induction m, hnm using Nat.le_induction with
  | base => exact le_rfl
  | succ m hm ih =>
    refine le_trans ?_ ih
    by_cases he : ev m = .cpuTick
    · rw [hcpu m (by omega) he]
    · exact (OutsideStep.of_agentStep (hrun m) he).dt_le

/-- A timer tick of a running machine in a run counts DT down. -/
theorem IsRun.dt_of_timerTick (hrun : IsRun ev run) {m : Nat} (he : ev m = .timerTick) (hr : (run m).running = true) :
    (run (m + 1)).dt.toNat = (run m).dt.toNat - 1 := by
  have hstep := hrun m
  rw [he] at hstep
  have hnext : (run m).tickTimers = run (m + 1) := Host.Outcome.next.inj ((timerTick_of_running _ hr).symm.trans hstep)
  rw [← hnext, State.tickTimers_dt_toNat]

/-- Fairness gives a timer tick after any point, so DT goes down by any number, stopping at 0. -/
theorem FairRun.dt_descends (hfair : FairRun ev run) (hr : ∀ n, start ≤ n → (run n).running = true)
    (hcpu : ∀ n, start ≤ n → ev n = .cpuTick → (run (n + 1)).dt = (run n).dt) (k : Nat) :
    ∃ n, start ≤ n ∧ (run n).dt.toNat ≤ (run start).dt.toNat - k := by
  obtain ⟨hrun, htimer, -⟩ := hfair
  induction k with
  | zero => exact ⟨start, le_rfl, le_rfl⟩
  | succ k ih =>
    obtain ⟨n, hn, hk⟩ := ih
    obtain ⟨m, hnm, he⟩ := htimer.infinitely_often start hr n
    have hbefore := hrun.dt_antitone hcpu hn hnm
    have htick := hrun.dt_of_timerTick he (hr m (by omega))
    exact ⟨m + 1, by omega, by omega⟩

end

/-- Settles O56: DT goes down by as much as it held at the start. -/
theorem delayEndsInFairRuns : Obligations.DelayEndsInFairRuns := by
  intro ev run start hfair hr hcpu
  obtain ⟨n, hn, hdt⟩ := hfair.dt_descends hr hcpu (run start).dt.toNat
  rw [Nat.sub_self] at hdt
  exact ⟨n, hn, BitVec.eq_of_toNat_eq (Nat.le_zero.mp hdt)⟩

end Sys2Proof.Machine

/-! PROOFS. The fetch-decode-execute step and the state after construction (70_reset R242, R250). -/

namespace Sys2Proof.Machine

/-! ## A step at a decodable word (R250) -/

/-- Settles O5: the tick's cycle fetches and decodes the word, and the instruction answers a next state, to which the trace line is added. -/
theorem stepRunsTheDecodedInstruction : Obligations.StepRunsTheDecodedInstruction := by
  intro s i hnext hrun hfault hpc hdec
  obtain ⟨t, hexec⟩ := exec_eq_next i { s with pc := s.pc + 2, schedule := s.schedule.tail }
  rw [hexec]
  calc step s
      _ = cpuTick s.dequeue := by rw [step_eq, hnext]; rfl
      _ = s.dequeue.cycle := cpuTick_of_running s.dequeue hrun hfault
      _ = .next (t.afterTrace i.mnemonic s.pc (s.wordAt s.pc.toNat)) := State.cycle_of_exec (s.dequeue.fetch_of_le hpc) hdec hexec

/-! ## The state after construction (R34, R35, R242) -/

/-- The state after construction has the values that a load gives the fields it clears (R240). -/
theorem State.reset_isCleared : State.reset.IsCleared := State.reset.cleared_isCleared

theorem State.readByte_reset (a : Nat) : State.reset.readByte a = resetByte a := Memory.read_nil a

/-- The font region holds the font (R35). -/
theorem resetByte_fontBase_add (k : Nat) : resetByte (fontBase + k) = fontData.getD k 0 := by
  rw [resetByte, if_pos (Nat.le_add_right ..), Nat.add_sub_cancel_left]

theorem fontData_length : fontData.length = 80 := rfl

/-- Memory is zero apart from the font (R34). -/
theorem resetByte_outside_font {a : Nat} (h : a < fontBase ∨ fontBase + 80 ≤ a) : resetByte a = 0 := by
  rcases h with hbelow | habove
  · exact if_neg (Nat.not_le.mpr hbelow)
  · have hpast : fontData.length ≤ a - fontBase := by rw [fontData_length]; omega
    rw [resetByte, if_pos (by omega), List.getD_eq_default _ _ hpast]

/-- Settles O57: the fields that a load clears, those that construction sets beside them, and memory, of which no cell is listed. -/
theorem resetLeavesTheseValues : Obligations.ResetLeavesTheseValues := by
  obtain ⟨hv, hi, hpc, hsp, hstack, hdt, hst, hkey, hlatch, hfb⟩ := State.reset_isCleared
  exact ⟨hv, hi, hpc, hsp, hstack, hdt, hst, hkey, hlatch, hfb, rfl, rfl, rfl,
    fun k _ => (State.readByte_reset _).trans (resetByte_fontBase_add k),
    fun a ha => (State.readByte_reset a).trans (resetByte_outside_font ha)⟩

end Sys2Proof.Machine

/-! PROOFS. Fixed values of the model: words that decode to the operation or the unknown class that the spec names for them (30_encoding), and
the parameters chosen for the state after construction (10_state R35). -/

namespace Sys2Proof.Machine

/-! ## Sample words (R74 to R80) -/

/-- R76, R80: family 5 with a low nibble other than 0 has no operation. -/
theorem decodeWord_of_family5_unknown {w : Word} (h : opFamily w = 0x5) (hn : opN w ≠ 0) :
    decodeWord w = .error .unknownFamily5 := by
  rw [decodeWord, h]; exact if_neg hn

/-- Settles O4: 5001 has a low nibble that family 5 does not list, and each other word is the word of the instruction named. -/
theorem sampleWordsDecode : Obligations.SampleWordsDecode := by
  refine ⟨?cls, ?ldImm, ?addImm, ?unknown, ?call, ?addReg, ?drw, ?skp, ?ldBVx⟩
  case unknown => exact decodeWord_of_family5_unknown rfl (by decide)
  all_goals exact decodeWord_of_encode_eq rfl rfl

/-! ## The chosen parameters (R35; log entries 5, 8, 9) -/

/-- The font region after construction, read as one block, is the font (R35). -/
theorem readBytes_reset_font : Memory.readBytes State.reset.mem fontBase fontData.length = fontData := by
  refine List.ext_getElem (Memory.readBytes_length ..) fun k hread hfont => ?_
  calc (Memory.readBytes State.reset.mem fontBase fontData.length)[k]
      _ = State.reset.readByte (fontBase + k) := Memory.readBytes_getElem ..
      _ = fontData.getD k 0 := (State.readByte_reset _).trans (resetByte_fontBase_add k)
      _ = fontData[k] := (List.getElem_eq_getD 0).symm

/-- Settles O58: the three other values are those that the model is defined with, and the font's default is the bytes listed. -/
theorem chosenParametersAtReset : Obligations.ChosenParametersAtReset :=
  ⟨rfl, rfl, rfl, readBytes_reset_font⟩

end Sys2Proof.Machine
